-- ==== Sys2Proof/Word.lean ====
section
/-! DEFINITION. The widths of the machine's values (00_scope.md R7, R10; 30_encoding.md R70). -/

namespace Sys2Proof

/-- A byte of memory (20_memory.md R40). -/
abbrev Byte := BitVec 8

/-- A 32-bit word: an instruction, or the low half of a register (30_encoding.md R70, 00_scope.md R13). -/
abbrev Word := BitVec 32

/-- A register value: `GPRLEN` is 64 (00_scope.md R7, R10). -/
abbrev DWord := BitVec 64

/-- A virtual address: `PCLEN` is 64 (00_scope.md R7, 20_memory.md R40). -/
abbrev Addr := BitVec 64

/-- A register specifier, 5 bits (30_encoding.md R70). -/
abbrev RegIdx := BitVec 5

end Sys2Proof
end

