-- ==== Sys2Proof/Config.lean ====
section
/-! DEFINITION. The parameters of the model (00_scope.md R7; 92_eei_decisions.md D1 to D19) and its free values.
The parameters are plain data; the machine's state carries them (log entry 1), so that a statement about every state
is a statement about every value of every parameter. -/

namespace Sys2Proof

/-- The processor mode: which map of encodings is valid (00_scope.md R6, 30_encoding.md R89). -/
inductive ISAMode where
  | II
  | III
  | IV
deriving DecidableEq, Repr

/-- The kind of an access, as `ValidAddr` is asked about it (20_memory.md R41). -/
inductive AccessKind where
  | fetch
  | load
  | store
deriving DecidableEq, Repr

/-- What a region of the address space answers to an access of one kind (20_memory.md R49, 60_exceptions.md R303 (c)
and R304): the access may be made; the address is outside what the mode may touch and raises Address Error, where the
platform tells the two apart; or the access raises `MemoryFault`. -/
inductive Permission where
  | allowed
  | addressError
  | memoryFault
deriving DecidableEq, Repr

/-- A region of the platform's address map: the addresses from `first` to `last`, both included, and its answer to each
kind of access. `ValidAddr` is a list of these (20_memory.md R41, R49; log entry 5). -/
structure Region where
  first : Addr
  last : Addr
  fetch : Permission
  load : Permission
  store : Permission
deriving DecidableEq, Repr

/-- What LWR does to bits 63:32 when it does not load bit 31 (42_load_store.md R173, D8). -/
inductive LWRUpperPolicy where
  | sext
  | keep
deriving DecidableEq, Repr

/-- What a write of HI or LO within two instructions of MFHI or MFLO does (70_reset_and_hazards.md R350, D17): the
program is refused, or (the alternative R350 allows) the destination of the MFHI or MFLO becomes any value. -/
inductive HiLoHazard where
  | refuse
  | destinationAny
deriving DecidableEq, Repr

/-- Whether an SC executed with `LLbit` = 1 is a free choice in every case, or succeeds where the sequence obeys
43_atomic_prefetch_sync.md R191 (b), the strengthening that R191 (c) allows a model of one agent (D9). -/
inductive SCPolicy where
  | freeChoice
  | succeedsIfIntact
deriving DecidableEq, Repr

/-- The parameters of a run (00_scope.md R7), fixed for the whole run (70_reset_and_hazards.md R341). -/
structure Config where
  /-- `ISAMode` (R6, D1). -/
  isaMode : ISAMode
  /-- `BigEndianCPU` (20_memory.md R42, D3). -/
  bigEndian : Bool
  /-- `ValidAddr` (20_memory.md R41, D4): the regions of the address space; what no region holds is not valid. -/
  regions : List Region
  /-- `CU[0..3]` (48_non_cpu.md R281, D5). -/
  cu : Vector Bool 4
  /-- `RhoIsCop0` (48_non_cpu.md R293, D6). -/
  rhoIsCop0 : Bool
  /-- `Ops64Enabled` (60_exceptions.md R301 (e), D7). -/
  ops64Enabled : Bool
  /-- `LWRUpperPolicy` (42_load_store.md R173, D8). -/
  lwrUpperPolicy : LWRUpperPolicy
  /-- The SC oracle's strengthening (43_atomic_prefetch_sync.md R191 (c), D9). -/
  scPolicy : SCPolicy
  /-- `HiLoHazard` (70_reset_and_hazards.md R350, D17). -/
  hiLoHazard : HiLoHazard
  /-- `EntryPC` (10_state.md R34, D13). -/
  entryPC : Addr
deriving DecidableEq, Repr

/-- The parameters as decided (D1, D5, D6, D7, D17); those the spec leaves OPEN (D3, D4, D8, D9, D13) stand at values
this model names. DESIGN CHOICE, unsafe: log entry 2. -/
def Config.default : Config where
  isaMode := .IV
  bigEndian := true
  regions := [⟨0, 0xFFFFFFFFFFFFFFFF, .allowed, .allowed, .allowed⟩]
  cu := #v[false, false, false, false]
  rhoIsCop0 := false
  ops64Enabled := true
  lwrUpperPolicy := .sext
  scPolicy := .freeChoice
  hiLoHazard := .refuse
  entryPC := 0x1000

/-- The free 64-bit values: `any` of 00_scope.md R11, one for each draw of a run (log entry 6). Nothing constrains it. -/
opaque Config.freeWord : Nat → DWord

/-- The free bits: `any` of 00_scope.md R11 where it is one bit, and the SC oracle's choice (log entry 6). -/
opaque Config.freeBit : Nat → Bool

/-- The byte an address holds at launch where the environment states none (70_reset_and_hazards.md R341: unspecified;
log entry 4). Nothing constrains it. -/
opaque Config.launchByte : Addr → Byte

end Sys2Proof
end

