-- ==== Sys2Proof/Syntax.lean ====
section
/-! DEFINITION. The instructions: one constructor for each row of opcode_table.json (30_encoding.md R94). Operands stand in
the order of the assembler's line (30_encoding.md R100); each has the width of its field (R70 to R73, R78). The entries of
which the spec describes no field but the selecting one carry the rest of the word whole (`rest`). -/

namespace Sys2Proof

/-- An instruction of the encoding maps at MIPS IV, or one of the five historic coprocessor 3 entries. -/
inductive Instr where
  -- Jumps and branches (40_jump_branch.md)
  /-- J: R117. -/
  | j (index : BitVec 26)
  /-- JAL: R118. -/
  | jal (index : BitVec 26)
  /-- BEQ: R121. -/
  | beq (rs rt : RegIdx) (offset : BitVec 16)
  /-- BNE: R122. -/
  | bne (rs rt : RegIdx) (offset : BitVec 16)
  /-- BLEZ: R123. -/
  | blez (rs : RegIdx) (offset : BitVec 16)
  /-- BGTZ: R124. -/
  | bgtz (rs : RegIdx) (offset : BitVec 16)
  /-- BEQL: R125. -/
  | beql (rs rt : RegIdx) (offset : BitVec 16)
  /-- BNEL: R126. -/
  | bnel (rs rt : RegIdx) (offset : BitVec 16)
  /-- BLEZL: R127. -/
  | blezl (rs : RegIdx) (offset : BitVec 16)
  /-- BGTZL: R128. -/
  | bgtzl (rs : RegIdx) (offset : BitVec 16)
  /-- JR: R119. -/
  | jr (rs : RegIdx)
  /-- JALR: R120. -/
  | jalr (rd rs : RegIdx)
  /-- BLTZ: R133. -/
  | bltz (rs : RegIdx) (offset : BitVec 16)
  /-- BGEZ: R134. -/
  | bgez (rs : RegIdx) (offset : BitVec 16)
  /-- BLTZL: R135. -/
  | bltzl (rs : RegIdx) (offset : BitVec 16)
  /-- BGEZL: R136. -/
  | bgezl (rs : RegIdx) (offset : BitVec 16)
  /-- BLTZAL: R129. -/
  | bltzal (rs : RegIdx) (offset : BitVec 16)
  /-- BGEZAL: R130. -/
  | bgezal (rs : RegIdx) (offset : BitVec 16)
  /-- BLTZALL: R131. -/
  | bltzall (rs : RegIdx) (offset : BitVec 16)
  /-- BGEZALL: R132. -/
  | bgezall (rs : RegIdx) (offset : BitVec 16)
  -- Immediate arithmetic and logic (41_alu_immediate.md)
  /-- ADDI: R144. -/
  | addi (rt rs : RegIdx) (imm : BitVec 16)
  /-- ADDIU: R145. -/
  | addiu (rt rs : RegIdx) (imm : BitVec 16)
  /-- SLTI: R146. -/
  | slti (rt rs : RegIdx) (imm : BitVec 16)
  /-- SLTIU: R147. -/
  | sltiu (rt rs : RegIdx) (imm : BitVec 16)
  /-- ANDI: R148. -/
  | andi (rt rs : RegIdx) (imm : BitVec 16)
  /-- ORI: R149. -/
  | ori (rt rs : RegIdx) (imm : BitVec 16)
  /-- XORI: R150. -/
  | xori (rt rs : RegIdx) (imm : BitVec 16)
  /-- LUI: R151. -/
  | lui (rt : RegIdx) (imm : BitVec 16)
  /-- DADDI: R152. -/
  | daddi (rt rs : RegIdx) (imm : BitVec 16)
  /-- DADDIU: R153. -/
  | daddiu (rt rs : RegIdx) (imm : BitVec 16)
  -- Loads and stores (42_load_store.md)
  /-- LDL: R174. -/
  | ldl (rt : RegIdx) (offset : BitVec 16) (base : RegIdx)
  /-- LDR: R175. -/
  | ldr (rt : RegIdx) (offset : BitVec 16) (base : RegIdx)
  /-- LB: R165. -/
  | lb (rt : RegIdx) (offset : BitVec 16) (base : RegIdx)
  /-- LH: R167. -/
  | lh (rt : RegIdx) (offset : BitVec 16) (base : RegIdx)
  /-- LWL: R172. -/
  | lwl (rt : RegIdx) (offset : BitVec 16) (base : RegIdx)
  /-- LW: R169. -/
  | lw (rt : RegIdx) (offset : BitVec 16) (base : RegIdx)
  /-- LBU: R166. -/
  | lbu (rt : RegIdx) (offset : BitVec 16) (base : RegIdx)
  /-- LHU: R168. -/
  | lhu (rt : RegIdx) (offset : BitVec 16) (base : RegIdx)
  /-- LWR: R173. -/
  | lwr (rt : RegIdx) (offset : BitVec 16) (base : RegIdx)
  /-- LWU: R170. -/
  | lwu (rt : RegIdx) (offset : BitVec 16) (base : RegIdx)
  /-- SB: R180. -/
  | sb (rt : RegIdx) (offset : BitVec 16) (base : RegIdx)
  /-- SH: R181. -/
  | sh (rt : RegIdx) (offset : BitVec 16) (base : RegIdx)
  /-- SWL: R176. -/
  | swl (rt : RegIdx) (offset : BitVec 16) (base : RegIdx)
  /-- SW: R182. -/
  | sw (rt : RegIdx) (offset : BitVec 16) (base : RegIdx)
  /-- SDL: R178. -/
  | sdl (rt : RegIdx) (offset : BitVec 16) (base : RegIdx)
  /-- SDR: R179. -/
  | sdr (rt : RegIdx) (offset : BitVec 16) (base : RegIdx)
  /-- SWR: R177. -/
  | swr (rt : RegIdx) (offset : BitVec 16) (base : RegIdx)
  /-- LD: R171. -/
  | ld (rt : RegIdx) (offset : BitVec 16) (base : RegIdx)
  /-- SD: R183. -/
  | sd (rt : RegIdx) (offset : BitVec 16) (base : RegIdx)
  -- Load linked, store conditional, prefetch, synchronise (43_atomic_prefetch_sync.md)
  /-- LL: R192. -/
  | ll (rt : RegIdx) (offset : BitVec 16) (base : RegIdx)
  /-- PREF: R197. -/
  | pref (hint : BitVec 5) (offset : BitVec 16) (base : RegIdx)
  /-- LLD: R193. -/
  | lld (rt : RegIdx) (offset : BitVec 16) (base : RegIdx)
  /-- SC: R194. -/
  | sc (rt : RegIdx) (offset : BitVec 16) (base : RegIdx)
  /-- SCD: R195. -/
  | scd (rt : RegIdx) (offset : BitVec 16) (base : RegIdx)
  /-- SYNC: R198. -/
  | sync
  -- Shifts (44_shift.md)
  /-- SLL: R203. -/
  | sll (rd rt : RegIdx) (sa : BitVec 5)
  /-- SRL: R204. -/
  | srl (rd rt : RegIdx) (sa : BitVec 5)
  /-- SRA: R205. -/
  | sra (rd rt : RegIdx) (sa : BitVec 5)
  /-- SLLV: R206. -/
  | sllv (rd rt rs : RegIdx)
  /-- SRLV: R207. -/
  | srlv (rd rt rs : RegIdx)
  /-- SRAV: R208. -/
  | srav (rd rt rs : RegIdx)
  /-- DSLLV: R215. -/
  | dsllv (rd rt rs : RegIdx)
  /-- DSRLV: R216. -/
  | dsrlv (rd rt rs : RegIdx)
  /-- DSRAV: R217. -/
  | dsrav (rd rt rs : RegIdx)
  /-- DSLL: R209. -/
  | dsll (rd rt : RegIdx) (sa : BitVec 5)
  /-- DSRL: R210. -/
  | dsrl (rd rt : RegIdx) (sa : BitVec 5)
  /-- DSRA: R211. -/
  | dsra (rd rt : RegIdx) (sa : BitVec 5)
  /-- DSLL32: R212. -/
  | dsll32 (rd rt : RegIdx) (sa : BitVec 5)
  /-- DSRL32: R213. -/
  | dsrl32 (rd rt : RegIdx) (sa : BitVec 5)
  /-- DSRA32: R214. -/
  | dsra32 (rd rt : RegIdx) (sa : BitVec 5)
  -- Register arithmetic, logic, compare, conditional move (45_alu_register.md)
  /-- MOVZ: R237. -/
  | movz (rd rs rt : RegIdx)
  /-- MOVN: R238. -/
  | movn (rd rs rt : RegIdx)
  /-- ADD: R223. -/
  | add (rd rs rt : RegIdx)
  /-- ADDU: R224. -/
  | addu (rd rs rt : RegIdx)
  /-- SUB: R225. -/
  | sub (rd rs rt : RegIdx)
  /-- SUBU: R226. -/
  | subu (rd rs rt : RegIdx)
  /-- AND: R231. -/
  | and_ (rd rs rt : RegIdx)
  /-- OR: R232. -/
  | or_ (rd rs rt : RegIdx)
  /-- XOR: R233. -/
  | xor_ (rd rs rt : RegIdx)
  /-- NOR: R234. -/
  | nor (rd rs rt : RegIdx)
  /-- SLT: R235. -/
  | slt (rd rs rt : RegIdx)
  /-- SLTU: R236. -/
  | sltu (rd rs rt : RegIdx)
  /-- DADD: R227. -/
  | dadd (rd rs rt : RegIdx)
  /-- DADDU: R228. -/
  | daddu (rd rs rt : RegIdx)
  /-- DSUB: R229. -/
  | dsub (rd rs rt : RegIdx)
  /-- DSUBU: R230. -/
  | dsubu (rd rs rt : RegIdx)
  -- Multiply, divide, HI and LO (46_muldiv.md)
  /-- MFHI: R245. -/
  | mfhi (rd : RegIdx)
  /-- MTHI: R246. -/
  | mthi (rs : RegIdx)
  /-- MFLO: R247. -/
  | mflo (rd : RegIdx)
  /-- MTLO: R248. -/
  | mtlo (rs : RegIdx)
  /-- MULT: R249. -/
  | mult (rs rt : RegIdx)
  /-- MULTU: R250. -/
  | multu (rs rt : RegIdx)
  /-- DIV: R251. -/
  | div (rs rt : RegIdx)
  /-- DIVU: R252. -/
  | divu (rs rt : RegIdx)
  /-- DMULT: R253. -/
  | dmult (rs rt : RegIdx)
  /-- DMULTU: R254. -/
  | dmultu (rs rt : RegIdx)
  /-- DDIV: R255. -/
  | ddiv (rs rt : RegIdx)
  /-- DDIVU: R256. -/
  | ddivu (rs rt : RegIdx)
  -- Traps, system call, breakpoint (47_trap_system.md)
  /-- SYSCALL: R276. -/
  | syscall (code : BitVec 20)
  /-- BREAK: R277. -/
  | break_ (code : BitVec 20)
  /-- TGE: R264. -/
  | tge (rs rt : RegIdx) (code : BitVec 10)
  /-- TGEU: R265. -/
  | tgeu (rs rt : RegIdx) (code : BitVec 10)
  /-- TLT: R266. -/
  | tlt (rs rt : RegIdx) (code : BitVec 10)
  /-- TLTU: R267. -/
  | tltu (rs rt : RegIdx) (code : BitVec 10)
  /-- TEQ: R268. -/
  | teq (rs rt : RegIdx) (code : BitVec 10)
  /-- TNE: R269. -/
  | tne (rs rt : RegIdx) (code : BitVec 10)
  /-- TGEI: R270. -/
  | tgei (rs : RegIdx) (imm : BitVec 16)
  /-- TGEIU: R271. -/
  | tgeiu (rs : RegIdx) (imm : BitVec 16)
  /-- TLTI: R272. -/
  | tlti (rs : RegIdx) (imm : BitVec 16)
  /-- TLTIU: R273. -/
  | tltiu (rs : RegIdx) (imm : BitVec 16)
  /-- TEQI: R274. -/
  | teqi (rs : RegIdx) (imm : BitVec 16)
  /-- TNEI: R275. -/
  | tnei (rs : RegIdx) (imm : BitVec 16)
  -- Non-CPU entries (48_non_cpu.md)
  /-- COP0: R282. -/
  | cop0 (rest : BitVec 26)
  /-- COP1: R283. -/
  | cop1 (rest : BitVec 26)
  /-- COP2: R284. -/
  | cop2 (rest : BitVec 26)
  /-- COP1X: R285. -/
  | cop1x (rest : BitVec 26)
  /-- rho: R293. -/
  | rho (rt : RegIdx) (offset : BitVec 16) (base : RegIdx)
  /-- LWC1: R287. -/
  | lwc1 (rt : RegIdx) (offset : BitVec 16) (base : RegIdx)
  /-- LWC2: R288. -/
  | lwc2 (rt : RegIdx) (offset : BitVec 16) (base : RegIdx)
  /-- LDC1: R291. -/
  | ldc1 (rt : RegIdx) (offset : BitVec 16) (base : RegIdx)
  /-- LDC2: R292. -/
  | ldc2 (rt : RegIdx) (offset : BitVec 16) (base : RegIdx)
  /-- SWC1: R289. -/
  | swc1 (rt : RegIdx) (offset : BitVec 16) (base : RegIdx)
  /-- SWC2: R290. -/
  | swc2 (rt : RegIdx) (offset : BitVec 16) (base : RegIdx)
  /-- SDC1: R294. -/
  | sdc1 (rt : RegIdx) (offset : BitVec 16) (base : RegIdx)
  /-- SDC2: R295. -/
  | sdc2 (rt : RegIdx) (offset : BitVec 16) (base : RegIdx)
  /-- MOVCI: R286. -/
  | movci (rest : BitVec 20)
  -- Reserved cells (30_encoding.md R90)
  /-- RESERVED_OP_011100: R90. -/
  | reservedOp011100 (rest : BitVec 26)
  /-- RESERVED_OP_011101: R90. -/
  | reservedOp011101 (rest : BitVec 26)
  /-- RESERVED_OP_011110: R90. -/
  | reservedOp011110 (rest : BitVec 26)
  /-- RESERVED_OP_011111: R90. -/
  | reservedOp011111 (rest : BitVec 26)
  /-- RESERVED_OP_111011: R90. -/
  | reservedOp111011 (rest : BitVec 26)
  /-- RESERVED_SPECIAL_000101: R90. -/
  | reservedSpecial000101 (rest : BitVec 20)
  /-- RESERVED_SPECIAL_001110: R90. -/
  | reservedSpecial001110 (rest : BitVec 20)
  /-- RESERVED_SPECIAL_010101: R90. -/
  | reservedSpecial010101 (rest : BitVec 20)
  /-- RESERVED_SPECIAL_101000: R90. -/
  | reservedSpecial101000 (rest : BitVec 20)
  /-- RESERVED_SPECIAL_101001: R90. -/
  | reservedSpecial101001 (rest : BitVec 20)
  /-- RESERVED_SPECIAL_110101: R90. -/
  | reservedSpecial110101 (rest : BitVec 20)
  /-- RESERVED_SPECIAL_110111: R90. -/
  | reservedSpecial110111 (rest : BitVec 20)
  /-- RESERVED_SPECIAL_111001: R90. -/
  | reservedSpecial111001 (rest : BitVec 20)
  /-- RESERVED_SPECIAL_111101: R90. -/
  | reservedSpecial111101 (rest : BitVec 20)
  /-- RESERVED_REGIMM_00100: R90. -/
  | reservedRegimm00100 (rs : RegIdx) (imm : BitVec 16)
  /-- RESERVED_REGIMM_00101: R90. -/
  | reservedRegimm00101 (rs : RegIdx) (imm : BitVec 16)
  /-- RESERVED_REGIMM_00110: R90. -/
  | reservedRegimm00110 (rs : RegIdx) (imm : BitVec 16)
  /-- RESERVED_REGIMM_00111: R90. -/
  | reservedRegimm00111 (rs : RegIdx) (imm : BitVec 16)
  /-- RESERVED_REGIMM_01101: R90. -/
  | reservedRegimm01101 (rs : RegIdx) (imm : BitVec 16)
  /-- RESERVED_REGIMM_01111: R90. -/
  | reservedRegimm01111 (rs : RegIdx) (imm : BitVec 16)
  /-- RESERVED_REGIMM_10100: R90. -/
  | reservedRegimm10100 (rs : RegIdx) (imm : BitVec 16)
  /-- RESERVED_REGIMM_10101: R90. -/
  | reservedRegimm10101 (rs : RegIdx) (imm : BitVec 16)
  /-- RESERVED_REGIMM_10110: R90. -/
  | reservedRegimm10110 (rs : RegIdx) (imm : BitVec 16)
  /-- RESERVED_REGIMM_10111: R90. -/
  | reservedRegimm10111 (rs : RegIdx) (imm : BitVec 16)
  /-- RESERVED_REGIMM_11000: R90. -/
  | reservedRegimm11000 (rs : RegIdx) (imm : BitVec 16)
  /-- RESERVED_REGIMM_11001: R90. -/
  | reservedRegimm11001 (rs : RegIdx) (imm : BitVec 16)
  /-- RESERVED_REGIMM_11010: R90. -/
  | reservedRegimm11010 (rs : RegIdx) (imm : BitVec 16)
  /-- RESERVED_REGIMM_11011: R90. -/
  | reservedRegimm11011 (rs : RegIdx) (imm : BitVec 16)
  /-- RESERVED_REGIMM_11100: R90. -/
  | reservedRegimm11100 (rs : RegIdx) (imm : BitVec 16)
  /-- RESERVED_REGIMM_11101: R90. -/
  | reservedRegimm11101 (rs : RegIdx) (imm : BitVec 16)
  /-- RESERVED_REGIMM_11110: R90. -/
  | reservedRegimm11110 (rs : RegIdx) (imm : BitVec 16)
  /-- RESERVED_REGIMM_11111: R90. -/
  | reservedRegimm11111 (rs : RegIdx) (imm : BitVec 16)
  -- Historic coprocessor 3 entries (48_non_cpu.md R296)
  /-- COP3: R296. -/
  | cop3 (rest : BitVec 26)
  /-- LWC3: R296. -/
  | lwc3 (rt : RegIdx) (offset : BitVec 16) (base : RegIdx)
  /-- SWC3: R296. -/
  | swc3 (rt : RegIdx) (offset : BitVec 16) (base : RegIdx)
  /-- LDC3: R296. -/
  | ldc3 (rt : RegIdx) (offset : BitVec 16) (base : RegIdx)
  /-- SDC3: R296. -/
  | sdc3 (rt : RegIdx) (offset : BitVec 16) (base : RegIdx)
deriving DecidableEq, Repr

end Sys2Proof
end

