-- ==== Sys2Proof/WellFormed.lean ====
section
/-! DEFINITION. Well-formed instructions: the ones that stand in the map of a mode, with operands the spec allows. -/

namespace Sys2Proof

/-- The instruction's cell is in the map of the mode. Five encodings hold a historic coprocessor 3 entry in mode II and
another entry in modes III and IV (30_encoding.md R86, R89; 48_non_cpu.md R296; log entry 14); every other cell reads the
same in every mode, an instruction of a higher level being reserved there when it is executed (R89). -/
def Instr.inMap (m : ISAMode) : Instr → Bool
  | .cop3 .. | .lwc3 .. | .swc3 .. | .ldc3 .. | .sdc3 .. => decide (m = .II)
  | .cop1x .. | .pref .. | .reservedOp111011 .. | .ld .. | .sd .. => decide (m ≠ .II)
  | .j .. | .jal .. | .beq .. | .bne .. | .blez .. | .bgtz .. | .beql .. | .bnel .. | .blezl .. | .bgtzl ..
  | .jr .. | .jalr .. | .bltz .. | .bgez .. | .bltzl .. | .bgezl .. | .bltzal .. | .bgezal .. | .bltzall ..
  | .bgezall .. | .addi .. | .addiu .. | .slti .. | .sltiu .. | .andi .. | .ori .. | .xori .. | .lui ..
  | .daddi .. | .daddiu .. | .ldl .. | .ldr .. | .lb .. | .lh .. | .lwl .. | .lw .. | .lbu .. | .lhu ..
  | .lwr .. | .lwu .. | .sb .. | .sh .. | .swl .. | .sw .. | .sdl .. | .sdr .. | .swr .. | .ll .. | .lld ..
  | .sc .. | .scd .. | .sync .. | .sll .. | .srl .. | .sra .. | .sllv .. | .srlv .. | .srav .. | .dsllv ..
  | .dsrlv .. | .dsrav .. | .dsll .. | .dsrl .. | .dsra .. | .dsll32 .. | .dsrl32 .. | .dsra32 .. | .movz ..
  | .movn .. | .add .. | .addu .. | .sub .. | .subu .. | .and_ .. | .or_ .. | .xor_ .. | .nor .. | .slt ..
  | .sltu .. | .dadd .. | .daddu .. | .dsub .. | .dsubu .. | .mfhi .. | .mthi .. | .mflo .. | .mtlo ..
  | .mult .. | .multu .. | .div .. | .divu .. | .dmult .. | .dmultu .. | .ddiv .. | .ddivu .. | .syscall ..
  | .break_ .. | .tge .. | .tgeu .. | .tlt .. | .tltu .. | .teq .. | .tne .. | .tgei .. | .tgeiu .. | .tlti ..
  | .tltiu .. | .teqi .. | .tnei .. | .cop0 .. | .cop1 .. | .cop2 .. | .rho .. | .lwc1 .. | .lwc2 .. | .ldc1 ..
  | .ldc2 .. | .swc1 .. | .swc2 .. | .sdc1 .. | .sdc2 .. | .movci .. | .reservedOp011100 ..
  | .reservedOp011101 .. | .reservedOp011110 .. | .reservedOp011111 .. | .reservedSpecial000101 ..
  | .reservedSpecial001110 .. | .reservedSpecial010101 .. | .reservedSpecial101000 ..
  | .reservedSpecial101001 .. | .reservedSpecial110101 .. | .reservedSpecial110111 ..
  | .reservedSpecial111001 .. | .reservedSpecial111101 .. | .reservedRegimm00100 .. | .reservedRegimm00101 ..
  | .reservedRegimm00110 .. | .reservedRegimm00111 .. | .reservedRegimm01101 .. | .reservedRegimm01111 ..
  | .reservedRegimm10100 .. | .reservedRegimm10101 .. | .reservedRegimm10110 .. | .reservedRegimm10111 ..
  | .reservedRegimm11000 .. | .reservedRegimm11001 .. | .reservedRegimm11010 .. | .reservedRegimm11011 ..
  | .reservedRegimm11100 .. | .reservedRegimm11101 .. | .reservedRegimm11110 .. | .reservedRegimm11111 .. => true

/-- The operands are a combination the spec gives a meaning to: JALR with `rs = rd` (40_jump_branch.md R120) and the
linking branches with `rs` = 31 (R129 to R132) are not. -/
def Instr.operandsOk : Instr → Bool
  | .jalr rd rs => decide (rs ≠ rd)
  | .bltzal rs _ | .bgezal rs _ | .bltzall rs _ | .bgezall rs _ => decide (rs ≠ 31)
  | .j .. | .jal .. | .beq .. | .bne .. | .blez .. | .bgtz .. | .beql .. | .bnel .. | .blezl .. | .bgtzl ..
  | .jr .. | .bltz .. | .bgez .. | .bltzl .. | .bgezl .. | .addi .. | .addiu .. | .slti .. | .sltiu ..
  | .andi .. | .ori .. | .xori .. | .lui .. | .daddi .. | .daddiu .. | .ldl .. | .ldr .. | .lb .. | .lh ..
  | .lwl .. | .lw .. | .lbu .. | .lhu .. | .lwr .. | .lwu .. | .sb .. | .sh .. | .swl .. | .sw .. | .sdl ..
  | .sdr .. | .swr .. | .ld .. | .sd .. | .ll .. | .pref .. | .lld .. | .sc .. | .scd .. | .sync .. | .sll ..
  | .srl .. | .sra .. | .sllv .. | .srlv .. | .srav .. | .dsllv .. | .dsrlv .. | .dsrav .. | .dsll ..
  | .dsrl .. | .dsra .. | .dsll32 .. | .dsrl32 .. | .dsra32 .. | .movz .. | .movn .. | .add .. | .addu ..
  | .sub .. | .subu .. | .and_ .. | .or_ .. | .xor_ .. | .nor .. | .slt .. | .sltu .. | .dadd .. | .daddu ..
  | .dsub .. | .dsubu .. | .mfhi .. | .mthi .. | .mflo .. | .mtlo .. | .mult .. | .multu .. | .div ..
  | .divu .. | .dmult .. | .dmultu .. | .ddiv .. | .ddivu .. | .syscall .. | .break_ .. | .tge .. | .tgeu ..
  | .tlt .. | .tltu .. | .teq .. | .tne .. | .tgei .. | .tgeiu .. | .tlti .. | .tltiu .. | .teqi .. | .tnei ..
  | .cop0 .. | .cop1 .. | .cop2 .. | .cop1x .. | .rho .. | .lwc1 .. | .lwc2 .. | .ldc1 .. | .ldc2 .. | .swc1 ..
  | .swc2 .. | .sdc1 .. | .sdc2 .. | .movci .. | .reservedOp011100 .. | .reservedOp011101 ..
  | .reservedOp011110 .. | .reservedOp011111 .. | .reservedOp111011 .. | .reservedSpecial000101 ..
  | .reservedSpecial001110 .. | .reservedSpecial010101 .. | .reservedSpecial101000 ..
  | .reservedSpecial101001 .. | .reservedSpecial110101 .. | .reservedSpecial110111 ..
  | .reservedSpecial111001 .. | .reservedSpecial111101 .. | .reservedRegimm00100 .. | .reservedRegimm00101 ..
  | .reservedRegimm00110 .. | .reservedRegimm00111 .. | .reservedRegimm01101 .. | .reservedRegimm01111 ..
  | .reservedRegimm10100 .. | .reservedRegimm10101 .. | .reservedRegimm10110 .. | .reservedRegimm10111 ..
  | .reservedRegimm11000 .. | .reservedRegimm11001 .. | .reservedRegimm11010 .. | .reservedRegimm11011 ..
  | .reservedRegimm11100 .. | .reservedRegimm11101 .. | .reservedRegimm11110 .. | .reservedRegimm11111 ..
  | .cop3 .. | .lwc3 .. | .swc3 .. | .ldc3 .. | .sdc3 .. => true

/-- Well-formed in a mode: in its map, with operands the spec allows. -/
def Instr.wf (m : ISAMode) (i : Instr) : Bool := i.inMap m && i.operandsOk

end Sys2Proof
end

