-- ==== Sys2Proof/Decode.lean ====
section
/-! DEFINITION. The decoder and the encoder (30_encoding.md R70 to R94). The decoder looks the word up in the maps of
R80 to R82, as the mode's map has them (R83 to R89), and refuses a word whose must-be-zero fields (R79) are not zero; the
encoder builds the word from the formats of R71 to R73 and the sub-fields of R78. -/

namespace Sys2Proof

/-! ### Fields of an instruction word (R71 to R73, R78) -/

/-- `opcode`, bits 31:26. -/
def opcodeF (w : Word) : BitVec 6 := w.extractLsb' 26 6
/-- `rs`, also `base`, bits 25:21. -/
def rsF (w : Word) : RegIdx := w.extractLsb' 21 5
/-- `rt`, also `hint`, bits 20:16. -/
def rtF (w : Word) : RegIdx := w.extractLsb' 16 5
/-- `rd`, bits 15:11. -/
def rdF (w : Word) : RegIdx := w.extractLsb' 11 5
/-- `sa`, bits 10:6. -/
def saF (w : Word) : BitVec 5 := w.extractLsb' 6 5
/-- `function`, bits 5:0. -/
def functionF (w : Word) : BitVec 6 := w.extractLsb' 0 6
/-- `immediate`, also `offset`, bits 15:0. -/
def immF (w : Word) : BitVec 16 := w.extractLsb' 0 16
/-- `instr_index`, bits 25:0. -/
def indexF (w : Word) : BitVec 26 := w.extractLsb' 0 26
/-- The 20-bit `code`, bits 25:6. -/
def code20F (w : Word) : BitVec 20 := w.extractLsb' 6 20
/-- The 10-bit `code`, bits 15:6. -/
def code10F (w : Word) : BitVec 10 := w.extractLsb' 6 10

/-! ### The maps -/

/-- The SPECIAL function map (R81): the cell that `function` selects. -/
def decodeSpecial (w : Word) : Instr :=
  match functionF w with
  | 0b000000#6 => .sll (rdF w) (rtF w) (saF w)
  | 0b000001#6 => .movci (code20F w)
  | 0b000010#6 => .srl (rdF w) (rtF w) (saF w)
  | 0b000011#6 => .sra (rdF w) (rtF w) (saF w)
  | 0b000100#6 => .sllv (rdF w) (rtF w) (rsF w)
  | 0b000101#6 => .reservedSpecial000101 (code20F w)
  | 0b000110#6 => .srlv (rdF w) (rtF w) (rsF w)
  | 0b000111#6 => .srav (rdF w) (rtF w) (rsF w)
  | 0b001000#6 => .jr (rsF w)
  | 0b001001#6 => .jalr (rdF w) (rsF w)
  | 0b001010#6 => .movz (rdF w) (rsF w) (rtF w)
  | 0b001011#6 => .movn (rdF w) (rsF w) (rtF w)
  | 0b001100#6 => .syscall (code20F w)
  | 0b001101#6 => .break_ (code20F w)
  | 0b001110#6 => .reservedSpecial001110 (code20F w)
  | 0b001111#6 => .sync
  | 0b010000#6 => .mfhi (rdF w)
  | 0b010001#6 => .mthi (rsF w)
  | 0b010010#6 => .mflo (rdF w)
  | 0b010011#6 => .mtlo (rsF w)
  | 0b010100#6 => .dsllv (rdF w) (rtF w) (rsF w)
  | 0b010101#6 => .reservedSpecial010101 (code20F w)
  | 0b010110#6 => .dsrlv (rdF w) (rtF w) (rsF w)
  | 0b010111#6 => .dsrav (rdF w) (rtF w) (rsF w)
  | 0b011000#6 => .mult (rsF w) (rtF w)
  | 0b011001#6 => .multu (rsF w) (rtF w)
  | 0b011010#6 => .div (rsF w) (rtF w)
  | 0b011011#6 => .divu (rsF w) (rtF w)
  | 0b011100#6 => .dmult (rsF w) (rtF w)
  | 0b011101#6 => .dmultu (rsF w) (rtF w)
  | 0b011110#6 => .ddiv (rsF w) (rtF w)
  | 0b011111#6 => .ddivu (rsF w) (rtF w)
  | 0b100000#6 => .add (rdF w) (rsF w) (rtF w)
  | 0b100001#6 => .addu (rdF w) (rsF w) (rtF w)
  | 0b100010#6 => .sub (rdF w) (rsF w) (rtF w)
  | 0b100011#6 => .subu (rdF w) (rsF w) (rtF w)
  | 0b100100#6 => .and_ (rdF w) (rsF w) (rtF w)
  | 0b100101#6 => .or_ (rdF w) (rsF w) (rtF w)
  | 0b100110#6 => .xor_ (rdF w) (rsF w) (rtF w)
  | 0b100111#6 => .nor (rdF w) (rsF w) (rtF w)
  | 0b101000#6 => .reservedSpecial101000 (code20F w)
  | 0b101001#6 => .reservedSpecial101001 (code20F w)
  | 0b101010#6 => .slt (rdF w) (rsF w) (rtF w)
  | 0b101011#6 => .sltu (rdF w) (rsF w) (rtF w)
  | 0b101100#6 => .dadd (rdF w) (rsF w) (rtF w)
  | 0b101101#6 => .daddu (rdF w) (rsF w) (rtF w)
  | 0b101110#6 => .dsub (rdF w) (rsF w) (rtF w)
  | 0b101111#6 => .dsubu (rdF w) (rsF w) (rtF w)
  | 0b110000#6 => .tge (rsF w) (rtF w) (code10F w)
  | 0b110001#6 => .tgeu (rsF w) (rtF w) (code10F w)
  | 0b110010#6 => .tlt (rsF w) (rtF w) (code10F w)
  | 0b110011#6 => .tltu (rsF w) (rtF w) (code10F w)
  | 0b110100#6 => .teq (rsF w) (rtF w) (code10F w)
  | 0b110101#6 => .reservedSpecial110101 (code20F w)
  | 0b110110#6 => .tne (rsF w) (rtF w) (code10F w)
  | 0b110111#6 => .reservedSpecial110111 (code20F w)
  | 0b111000#6 => .dsll (rdF w) (rtF w) (saF w)
  | 0b111001#6 => .reservedSpecial111001 (code20F w)
  | 0b111010#6 => .dsrl (rdF w) (rtF w) (saF w)
  | 0b111011#6 => .dsra (rdF w) (rtF w) (saF w)
  | 0b111100#6 => .dsll32 (rdF w) (rtF w) (saF w)
  | 0b111101#6 => .reservedSpecial111101 (code20F w)
  | 0b111110#6 => .dsrl32 (rdF w) (rtF w) (saF w)
  -- the one value left, 111111
  | _ => .dsra32 (rdF w) (rtF w) (saF w)

/-- The REGIMM rt map (R82): the cell that `rt` selects. -/
def decodeRegimm (w : Word) : Instr :=
  match rtF w with
  | 0b00000#5 => .bltz (rsF w) (immF w)
  | 0b00001#5 => .bgez (rsF w) (immF w)
  | 0b00010#5 => .bltzl (rsF w) (immF w)
  | 0b00011#5 => .bgezl (rsF w) (immF w)
  | 0b00100#5 => .reservedRegimm00100 (rsF w) (immF w)
  | 0b00101#5 => .reservedRegimm00101 (rsF w) (immF w)
  | 0b00110#5 => .reservedRegimm00110 (rsF w) (immF w)
  | 0b00111#5 => .reservedRegimm00111 (rsF w) (immF w)
  | 0b01000#5 => .tgei (rsF w) (immF w)
  | 0b01001#5 => .tgeiu (rsF w) (immF w)
  | 0b01010#5 => .tlti (rsF w) (immF w)
  | 0b01011#5 => .tltiu (rsF w) (immF w)
  | 0b01100#5 => .teqi (rsF w) (immF w)
  | 0b01101#5 => .reservedRegimm01101 (rsF w) (immF w)
  | 0b01110#5 => .tnei (rsF w) (immF w)
  | 0b01111#5 => .reservedRegimm01111 (rsF w) (immF w)
  | 0b10000#5 => .bltzal (rsF w) (immF w)
  | 0b10001#5 => .bgezal (rsF w) (immF w)
  | 0b10010#5 => .bltzall (rsF w) (immF w)
  | 0b10011#5 => .bgezall (rsF w) (immF w)
  | 0b10100#5 => .reservedRegimm10100 (rsF w) (immF w)
  | 0b10101#5 => .reservedRegimm10101 (rsF w) (immF w)
  | 0b10110#5 => .reservedRegimm10110 (rsF w) (immF w)
  | 0b10111#5 => .reservedRegimm10111 (rsF w) (immF w)
  | 0b11000#5 => .reservedRegimm11000 (rsF w) (immF w)
  | 0b11001#5 => .reservedRegimm11001 (rsF w) (immF w)
  | 0b11010#5 => .reservedRegimm11010 (rsF w) (immF w)
  | 0b11011#5 => .reservedRegimm11011 (rsF w) (immF w)
  | 0b11100#5 => .reservedRegimm11100 (rsF w) (immF w)
  | 0b11101#5 => .reservedRegimm11101 (rsF w) (immF w)
  | 0b11110#5 => .reservedRegimm11110 (rsF w) (immF w)
  -- the one value left, 11111
  | _ => .reservedRegimm11111 (rsF w) (immF w)

/-- The primary opcode map (R80) and the classes under it (R75). The map is that of the mode (R89): in mode II the five
coprocessor 3 cells (R84, R86) hold COP3, LWC3, SWC3, LDC3 and SDC3. The other cells that a lower mode's map marks
reserved are selected here too, and their instructions raise Reserved Instruction in that mode (R89). -/
def decodeCell (m : ISAMode) (w : Word) : Instr :=
  match opcodeF w with
  | 0b000000#6 => decodeSpecial w
  | 0b000001#6 => decodeRegimm w
  | 0b000010#6 => .j (indexF w)
  | 0b000011#6 => .jal (indexF w)
  | 0b000100#6 => .beq (rsF w) (rtF w) (immF w)
  | 0b000101#6 => .bne (rsF w) (rtF w) (immF w)
  | 0b000110#6 => .blez (rsF w) (immF w)
  | 0b000111#6 => .bgtz (rsF w) (immF w)
  | 0b001000#6 => .addi (rtF w) (rsF w) (immF w)
  | 0b001001#6 => .addiu (rtF w) (rsF w) (immF w)
  | 0b001010#6 => .slti (rtF w) (rsF w) (immF w)
  | 0b001011#6 => .sltiu (rtF w) (rsF w) (immF w)
  | 0b001100#6 => .andi (rtF w) (rsF w) (immF w)
  | 0b001101#6 => .ori (rtF w) (rsF w) (immF w)
  | 0b001110#6 => .xori (rtF w) (rsF w) (immF w)
  | 0b001111#6 => .lui (rtF w) (immF w)
  | 0b010000#6 => .cop0 (indexF w)
  | 0b010001#6 => .cop1 (indexF w)
  | 0b010010#6 => .cop2 (indexF w)
  | 0b010011#6 => if m = .II then .cop3 (indexF w) else .cop1x (indexF w)
  | 0b010100#6 => .beql (rsF w) (rtF w) (immF w)
  | 0b010101#6 => .bnel (rsF w) (rtF w) (immF w)
  | 0b010110#6 => .blezl (rsF w) (immF w)
  | 0b010111#6 => .bgtzl (rsF w) (immF w)
  | 0b011000#6 => .daddi (rtF w) (rsF w) (immF w)
  | 0b011001#6 => .daddiu (rtF w) (rsF w) (immF w)
  | 0b011010#6 => .ldl (rtF w) (immF w) (rsF w)
  | 0b011011#6 => .ldr (rtF w) (immF w) (rsF w)
  | 0b011100#6 => .reservedOp011100 (indexF w)
  | 0b011101#6 => .reservedOp011101 (indexF w)
  | 0b011110#6 => .reservedOp011110 (indexF w)
  | 0b011111#6 => .reservedOp011111 (indexF w)
  | 0b100000#6 => .lb (rtF w) (immF w) (rsF w)
  | 0b100001#6 => .lh (rtF w) (immF w) (rsF w)
  | 0b100010#6 => .lwl (rtF w) (immF w) (rsF w)
  | 0b100011#6 => .lw (rtF w) (immF w) (rsF w)
  | 0b100100#6 => .lbu (rtF w) (immF w) (rsF w)
  | 0b100101#6 => .lhu (rtF w) (immF w) (rsF w)
  | 0b100110#6 => .lwr (rtF w) (immF w) (rsF w)
  | 0b100111#6 => .lwu (rtF w) (immF w) (rsF w)
  | 0b101000#6 => .sb (rtF w) (immF w) (rsF w)
  | 0b101001#6 => .sh (rtF w) (immF w) (rsF w)
  | 0b101010#6 => .swl (rtF w) (immF w) (rsF w)
  | 0b101011#6 => .sw (rtF w) (immF w) (rsF w)
  | 0b101100#6 => .sdl (rtF w) (immF w) (rsF w)
  | 0b101101#6 => .sdr (rtF w) (immF w) (rsF w)
  | 0b101110#6 => .swr (rtF w) (immF w) (rsF w)
  | 0b101111#6 => .rho (rtF w) (immF w) (rsF w)
  | 0b110000#6 => .ll (rtF w) (immF w) (rsF w)
  | 0b110001#6 => .lwc1 (rtF w) (immF w) (rsF w)
  | 0b110010#6 => .lwc2 (rtF w) (immF w) (rsF w)
  | 0b110011#6 => if m = .II then .lwc3 (rtF w) (immF w) (rsF w) else .pref (rtF w) (immF w) (rsF w)
  | 0b110100#6 => .lld (rtF w) (immF w) (rsF w)
  | 0b110101#6 => .ldc1 (rtF w) (immF w) (rsF w)
  | 0b110110#6 => .ldc2 (rtF w) (immF w) (rsF w)
  | 0b110111#6 => if m = .II then .ldc3 (rtF w) (immF w) (rsF w) else .ld (rtF w) (immF w) (rsF w)
  | 0b111000#6 => .sc (rtF w) (immF w) (rsF w)
  | 0b111001#6 => .swc1 (rtF w) (immF w) (rsF w)
  | 0b111010#6 => .swc2 (rtF w) (immF w) (rsF w)
  | 0b111011#6 => if m = .II then .swc3 (rtF w) (immF w) (rsF w) else .reservedOp111011 (indexF w)
  | 0b111100#6 => .scd (rtF w) (immF w) (rsF w)
  | 0b111101#6 => .sdc1 (rtF w) (immF w) (rsF w)
  | 0b111110#6 => .sdc2 (rtF w) (immF w) (rsF w)
  -- the one value left, 111111
  | _ => if m = .II then .sdc3 (rtF w) (immF w) (rsF w) else .sd (rtF w) (immF w) (rsF w)

/-! ### Levels and modes (R87, R89) -/

/-- The mode's place in the order of the levels (00_scope.md R6). -/
def modeRank : ISAMode → Nat
  | .II => 2
  | .III => 3
  | .IV => 4

/-- The lowest mode whose map holds the instruction (R87). Mode II stands for levels I and II, since no mode is lower; the
reserved and historic cells are reserved in every mode that selects them, whatever this says. -/
def Instr.level : Instr → ISAMode
  | .daddi .. | .daddiu .. | .ldl .. | .ldr .. | .lwu .. | .sdl .. | .sdr .. | .ld .. | .sd .. | .lld ..
  | .scd .. | .dsllv .. | .dsrlv .. | .dsrav .. | .dsll .. | .dsrl .. | .dsra .. | .dsll32 .. | .dsrl32 ..
  | .dsra32 .. | .dadd .. | .daddu .. | .dsub .. | .dsubu .. | .dmult .. | .dmultu .. | .ddiv .. | .ddivu .. => .III
  | .pref .. | .movz .. | .movn .. | .cop1x .. | .movci .. => .IV
  | .j .. | .jal .. | .beq .. | .bne .. | .blez .. | .bgtz .. | .beql .. | .bnel .. | .blezl .. | .bgtzl ..
  | .jr .. | .jalr .. | .bltz .. | .bgez .. | .bltzl .. | .bgezl .. | .bltzal .. | .bgezal .. | .bltzall ..
  | .bgezall .. | .addi .. | .addiu .. | .slti .. | .sltiu .. | .andi .. | .ori .. | .xori .. | .lui ..
  | .lb .. | .lh .. | .lwl .. | .lw .. | .lbu .. | .lhu .. | .lwr .. | .sb .. | .sh .. | .swl .. | .sw ..
  | .swr .. | .ll .. | .sc .. | .sync .. | .sll .. | .srl .. | .sra .. | .sllv .. | .srlv .. | .srav ..
  | .add .. | .addu .. | .sub .. | .subu .. | .and_ .. | .or_ .. | .xor_ .. | .nor .. | .slt .. | .sltu ..
  | .mfhi .. | .mthi .. | .mflo .. | .mtlo .. | .mult .. | .multu .. | .div .. | .divu .. | .syscall ..
  | .break_ .. | .tge .. | .tgeu .. | .tlt .. | .tltu .. | .teq .. | .tne .. | .tgei .. | .tgeiu .. | .tlti ..
  | .tltiu .. | .teqi .. | .tnei .. | .cop0 .. | .cop1 .. | .cop2 .. | .rho .. | .lwc1 .. | .lwc2 .. | .ldc1 ..
  | .ldc2 .. | .swc1 .. | .swc2 .. | .sdc1 .. | .sdc2 .. | .reservedOp011100 .. | .reservedOp011101 ..
  | .reservedOp011110 .. | .reservedOp011111 .. | .reservedOp111011 .. | .reservedSpecial000101 ..
  | .reservedSpecial001110 .. | .reservedSpecial010101 .. | .reservedSpecial101000 ..
  | .reservedSpecial101001 .. | .reservedSpecial110101 .. | .reservedSpecial110111 ..
  | .reservedSpecial111001 .. | .reservedSpecial111101 .. | .reservedRegimm00100 .. | .reservedRegimm00101 ..
  | .reservedRegimm00110 .. | .reservedRegimm00111 .. | .reservedRegimm01101 .. | .reservedRegimm01111 ..
  | .reservedRegimm10100 .. | .reservedRegimm10101 .. | .reservedRegimm10110 .. | .reservedRegimm10111 ..
  | .reservedRegimm11000 .. | .reservedRegimm11001 .. | .reservedRegimm11010 .. | .reservedRegimm11011 ..
  | .reservedRegimm11100 .. | .reservedRegimm11101 .. | .reservedRegimm11110 .. | .reservedRegimm11111 ..
  | .cop3 .. | .lwc3 .. | .swc3 .. | .ldc3 .. | .sdc3 .. => .II

/-- An instruction of this level raises Reserved Instruction under these parameters: the level is above the mode
(60_exceptions.md R301 (b)), or it is MIPS III, whose CPU instructions are the 64-bit operations, and they are not enabled
(R301 (e), D7). -/
def reserves (c : Config) (level : ISAMode) : Bool :=
  decide (modeRank c.isaMode < modeRank level) || (decide (level = .III) && !c.ops64Enabled)

/-! ### Must-be-zero fields (R79) -/

/-- The bits of the word that the instruction requires to be zero (R79): `strict_mask` without `mask` in
opcode_table.json. -/
def Instr.mustBeZero : Instr → Word
  | .sync .. => 0x03FFFFC0
  | .mfhi .. | .mflo .. => 0x03FF07C0
  | .lui .. | .sll .. | .srl .. | .sra .. | .dsll .. | .dsrl .. | .dsra .. | .dsll32 .. | .dsrl32 ..
  | .dsra32 .. => 0x03E00000
  | .jr .. | .mthi .. | .mtlo .. => 0x001FFFC0
  | .jalr .. => 0x001F07C0
  | .blez .. | .bgtz .. | .blezl .. | .bgtzl .. => 0x001F0000
  | .mult .. | .multu .. | .div .. | .divu .. | .dmult .. | .dmultu .. | .ddiv .. | .ddivu .. => 0x0000FFC0
  | .sllv .. | .srlv .. | .srav .. | .dsllv .. | .dsrlv .. | .dsrav .. | .movz .. | .movn .. | .add ..
  | .addu .. | .sub .. | .subu .. | .and_ .. | .or_ .. | .xor_ .. | .nor .. | .slt .. | .sltu .. | .dadd ..
  | .daddu .. | .dsub .. | .dsubu .. => 0x000007C0
  | .j .. | .jal .. | .beq .. | .bne .. | .beql .. | .bnel .. | .bltz .. | .bgez .. | .bltzl .. | .bgezl ..
  | .bltzal .. | .bgezal .. | .bltzall .. | .bgezall .. | .addi .. | .addiu .. | .slti .. | .sltiu ..
  | .andi .. | .ori .. | .xori .. | .daddi .. | .daddiu .. | .ldl .. | .ldr .. | .lb .. | .lh .. | .lwl ..
  | .lw .. | .lbu .. | .lhu .. | .lwr .. | .lwu .. | .sb .. | .sh .. | .swl .. | .sw .. | .sdl .. | .sdr ..
  | .swr .. | .ld .. | .sd .. | .ll .. | .pref .. | .lld .. | .sc .. | .scd .. | .syscall .. | .break_ ..
  | .tge .. | .tgeu .. | .tlt .. | .tltu .. | .teq .. | .tne .. | .tgei .. | .tgeiu .. | .tlti .. | .tltiu ..
  | .teqi .. | .tnei .. | .cop0 .. | .cop1 .. | .cop2 .. | .cop1x .. | .rho .. | .lwc1 .. | .lwc2 .. | .ldc1 ..
  | .ldc2 .. | .swc1 .. | .swc2 .. | .sdc1 .. | .sdc2 .. | .movci .. | .reservedOp011100 ..
  | .reservedOp011101 .. | .reservedOp011110 .. | .reservedOp011111 .. | .reservedOp111011 ..
  | .reservedSpecial000101 .. | .reservedSpecial001110 .. | .reservedSpecial010101 ..
  | .reservedSpecial101000 .. | .reservedSpecial101001 .. | .reservedSpecial110101 ..
  | .reservedSpecial110111 .. | .reservedSpecial111001 .. | .reservedSpecial111101 .. | .reservedRegimm00100 ..
  | .reservedRegimm00101 .. | .reservedRegimm00110 .. | .reservedRegimm00111 .. | .reservedRegimm01101 ..
  | .reservedRegimm01111 .. | .reservedRegimm10100 .. | .reservedRegimm10101 .. | .reservedRegimm10110 ..
  | .reservedRegimm10111 .. | .reservedRegimm11000 .. | .reservedRegimm11001 .. | .reservedRegimm11010 ..
  | .reservedRegimm11011 .. | .reservedRegimm11100 .. | .reservedRegimm11101 .. | .reservedRegimm11110 ..
  | .reservedRegimm11111 .. | .cop3 .. | .lwc3 .. | .swc3 .. | .ldc3 .. | .sdc3 .. => 0x00000000

/-- Why the decoder refuses: the word has a non-zero must-be-zero field of the instruction named (R79, D16). -/
inductive DecodeError where
  | mustBeZeroField (i : Instr)
deriving DecidableEq, Repr

/-- The decoder: the word's cell in the map of the mode (R75, R89), or a refusal where a must-be-zero field is not zero
(R79). The level test comes first (70_reset_and_hazards.md R357 step 4): a word whose instruction is reserved under the
parameters is not refused, and raises Reserved Instruction when it is executed. -/
def decode (c : Config) (w : Word) : Except DecodeError Instr :=
  let i := decodeCell c.isaMode w
  if reserves c i.level = false ∧ w &&& i.mustBeZero ≠ 0 then .error (.mustBeZeroField i) else .ok i

/-- The four bytes of an instruction, lowest address first, as one word (20_memory.md R42, R43). -/
def wordOfBytes (bigEndian : Bool) (b0 b1 b2 b3 : Byte) : Word :=
  if bigEndian then b0 ++ b1 ++ b2 ++ b3 else b3 ++ b2 ++ b1 ++ b0

/-- The decoder on the four bytes of an instruction, lowest address first (R70, 20_memory.md R43). -/
def decodeBytes (c : Config) (b0 b1 b2 b3 : Byte) : Except DecodeError Instr :=
  decode c (wordOfBytes c.bigEndian b0 b1 b2 b3)

/-! ### The encoder -/

/-- I-type (R71). -/
def iType (opcode : BitVec 6) (rs rt : RegIdx) (imm : BitVec 16) : Word := opcode ++ rs ++ rt ++ imm
/-- J-type (R72). -/
def jType (opcode : BitVec 6) (index : BitVec 26) : Word := opcode ++ index
/-- R-type (R73) of the class SPECIAL. -/
def rType (rs rt rd : RegIdx) (sa : BitVec 5) (function : BitVec 6) : Word := 0#6 ++ rs ++ rt ++ rd ++ sa ++ function
/-- R-type with the 10-bit `code` in bits 15:6 (R78). -/
def trapType (rs rt : RegIdx) (code : BitVec 10) (function : BitVec 6) : Word := 0#6 ++ rs ++ rt ++ code ++ function
/-- R-type with 20 bits in 25:6 (R78). -/
def codeType (code : BitVec 20) (function : BitVec 6) : Word := 0#6 ++ code ++ function

/-- The word of an instruction: its row's selecting fields (R80 to R82, R86), its operands, and zero in the must-be-zero
fields (R79). -/
def encode : Instr → Word
  | .j index => jType 0b000010 index
  | .jal index => jType 0b000011 index
  | .beq rs rt offset => iType 0b000100 rs rt offset
  | .bne rs rt offset => iType 0b000101 rs rt offset
  | .blez rs offset => iType 0b000110 rs 0 offset
  | .bgtz rs offset => iType 0b000111 rs 0 offset
  | .beql rs rt offset => iType 0b010100 rs rt offset
  | .bnel rs rt offset => iType 0b010101 rs rt offset
  | .blezl rs offset => iType 0b010110 rs 0 offset
  | .bgtzl rs offset => iType 0b010111 rs 0 offset
  | .jr rs => rType rs 0 0 0 0b001000
  | .jalr rd rs => rType rs 0 rd 0 0b001001
  | .bltz rs offset => iType 0b000001 rs 0b00000 offset
  | .bgez rs offset => iType 0b000001 rs 0b00001 offset
  | .bltzl rs offset => iType 0b000001 rs 0b00010 offset
  | .bgezl rs offset => iType 0b000001 rs 0b00011 offset
  | .bltzal rs offset => iType 0b000001 rs 0b10000 offset
  | .bgezal rs offset => iType 0b000001 rs 0b10001 offset
  | .bltzall rs offset => iType 0b000001 rs 0b10010 offset
  | .bgezall rs offset => iType 0b000001 rs 0b10011 offset
  | .addi rt rs imm => iType 0b001000 rs rt imm
  | .addiu rt rs imm => iType 0b001001 rs rt imm
  | .slti rt rs imm => iType 0b001010 rs rt imm
  | .sltiu rt rs imm => iType 0b001011 rs rt imm
  | .andi rt rs imm => iType 0b001100 rs rt imm
  | .ori rt rs imm => iType 0b001101 rs rt imm
  | .xori rt rs imm => iType 0b001110 rs rt imm
  | .lui rt imm => iType 0b001111 0 rt imm
  | .daddi rt rs imm => iType 0b011000 rs rt imm
  | .daddiu rt rs imm => iType 0b011001 rs rt imm
  | .ldl rt offset base => iType 0b011010 base rt offset
  | .ldr rt offset base => iType 0b011011 base rt offset
  | .lb rt offset base => iType 0b100000 base rt offset
  | .lh rt offset base => iType 0b100001 base rt offset
  | .lwl rt offset base => iType 0b100010 base rt offset
  | .lw rt offset base => iType 0b100011 base rt offset
  | .lbu rt offset base => iType 0b100100 base rt offset
  | .lhu rt offset base => iType 0b100101 base rt offset
  | .lwr rt offset base => iType 0b100110 base rt offset
  | .lwu rt offset base => iType 0b100111 base rt offset
  | .sb rt offset base => iType 0b101000 base rt offset
  | .sh rt offset base => iType 0b101001 base rt offset
  | .swl rt offset base => iType 0b101010 base rt offset
  | .sw rt offset base => iType 0b101011 base rt offset
  | .sdl rt offset base => iType 0b101100 base rt offset
  | .sdr rt offset base => iType 0b101101 base rt offset
  | .swr rt offset base => iType 0b101110 base rt offset
  | .ld rt offset base => iType 0b110111 base rt offset
  | .sd rt offset base => iType 0b111111 base rt offset
  | .ll rt offset base => iType 0b110000 base rt offset
  | .pref hint offset base => iType 0b110011 base hint offset
  | .lld rt offset base => iType 0b110100 base rt offset
  | .sc rt offset base => iType 0b111000 base rt offset
  | .scd rt offset base => iType 0b111100 base rt offset
  | .sync => rType 0 0 0 0 0b001111
  | .sll rd rt sa => rType 0 rt rd sa 0b000000
  | .srl rd rt sa => rType 0 rt rd sa 0b000010
  | .sra rd rt sa => rType 0 rt rd sa 0b000011
  | .sllv rd rt rs => rType rs rt rd 0 0b000100
  | .srlv rd rt rs => rType rs rt rd 0 0b000110
  | .srav rd rt rs => rType rs rt rd 0 0b000111
  | .dsllv rd rt rs => rType rs rt rd 0 0b010100
  | .dsrlv rd rt rs => rType rs rt rd 0 0b010110
  | .dsrav rd rt rs => rType rs rt rd 0 0b010111
  | .dsll rd rt sa => rType 0 rt rd sa 0b111000
  | .dsrl rd rt sa => rType 0 rt rd sa 0b111010
  | .dsra rd rt sa => rType 0 rt rd sa 0b111011
  | .dsll32 rd rt sa => rType 0 rt rd sa 0b111100
  | .dsrl32 rd rt sa => rType 0 rt rd sa 0b111110
  | .dsra32 rd rt sa => rType 0 rt rd sa 0b111111
  | .movz rd rs rt => rType rs rt rd 0 0b001010
  | .movn rd rs rt => rType rs rt rd 0 0b001011
  | .add rd rs rt => rType rs rt rd 0 0b100000
  | .addu rd rs rt => rType rs rt rd 0 0b100001
  | .sub rd rs rt => rType rs rt rd 0 0b100010
  | .subu rd rs rt => rType rs rt rd 0 0b100011
  | .and_ rd rs rt => rType rs rt rd 0 0b100100
  | .or_ rd rs rt => rType rs rt rd 0 0b100101
  | .xor_ rd rs rt => rType rs rt rd 0 0b100110
  | .nor rd rs rt => rType rs rt rd 0 0b100111
  | .slt rd rs rt => rType rs rt rd 0 0b101010
  | .sltu rd rs rt => rType rs rt rd 0 0b101011
  | .dadd rd rs rt => rType rs rt rd 0 0b101100
  | .daddu rd rs rt => rType rs rt rd 0 0b101101
  | .dsub rd rs rt => rType rs rt rd 0 0b101110
  | .dsubu rd rs rt => rType rs rt rd 0 0b101111
  | .mfhi rd => rType 0 0 rd 0 0b010000
  | .mthi rs => rType rs 0 0 0 0b010001
  | .mflo rd => rType 0 0 rd 0 0b010010
  | .mtlo rs => rType rs 0 0 0 0b010011
  | .mult rs rt => rType rs rt 0 0 0b011000
  | .multu rs rt => rType rs rt 0 0 0b011001
  | .div rs rt => rType rs rt 0 0 0b011010
  | .divu rs rt => rType rs rt 0 0 0b011011
  | .dmult rs rt => rType rs rt 0 0 0b011100
  | .dmultu rs rt => rType rs rt 0 0 0b011101
  | .ddiv rs rt => rType rs rt 0 0 0b011110
  | .ddivu rs rt => rType rs rt 0 0 0b011111
  | .syscall code => codeType code 0b001100
  | .break_ code => codeType code 0b001101
  | .tge rs rt code => trapType rs rt code 0b110000
  | .tgeu rs rt code => trapType rs rt code 0b110001
  | .tlt rs rt code => trapType rs rt code 0b110010
  | .tltu rs rt code => trapType rs rt code 0b110011
  | .teq rs rt code => trapType rs rt code 0b110100
  | .tne rs rt code => trapType rs rt code 0b110110
  | .tgei rs imm => iType 0b000001 rs 0b01000 imm
  | .tgeiu rs imm => iType 0b000001 rs 0b01001 imm
  | .tlti rs imm => iType 0b000001 rs 0b01010 imm
  | .tltiu rs imm => iType 0b000001 rs 0b01011 imm
  | .teqi rs imm => iType 0b000001 rs 0b01100 imm
  | .tnei rs imm => iType 0b000001 rs 0b01110 imm
  | .cop0 rest => jType 0b010000 rest
  | .cop1 rest => jType 0b010001 rest
  | .cop2 rest => jType 0b010010 rest
  | .cop1x rest => jType 0b010011 rest
  | .rho rt offset base => iType 0b101111 base rt offset
  | .lwc1 rt offset base => iType 0b110001 base rt offset
  | .lwc2 rt offset base => iType 0b110010 base rt offset
  | .ldc1 rt offset base => iType 0b110101 base rt offset
  | .ldc2 rt offset base => iType 0b110110 base rt offset
  | .swc1 rt offset base => iType 0b111001 base rt offset
  | .swc2 rt offset base => iType 0b111010 base rt offset
  | .sdc1 rt offset base => iType 0b111101 base rt offset
  | .sdc2 rt offset base => iType 0b111110 base rt offset
  | .movci rest => codeType rest 0b000001
  | .reservedOp011100 rest => jType 0b011100 rest
  | .reservedOp011101 rest => jType 0b011101 rest
  | .reservedOp011110 rest => jType 0b011110 rest
  | .reservedOp011111 rest => jType 0b011111 rest
  | .reservedOp111011 rest => jType 0b111011 rest
  | .reservedSpecial000101 rest => codeType rest 0b000101
  | .reservedSpecial001110 rest => codeType rest 0b001110
  | .reservedSpecial010101 rest => codeType rest 0b010101
  | .reservedSpecial101000 rest => codeType rest 0b101000
  | .reservedSpecial101001 rest => codeType rest 0b101001
  | .reservedSpecial110101 rest => codeType rest 0b110101
  | .reservedSpecial110111 rest => codeType rest 0b110111
  | .reservedSpecial111001 rest => codeType rest 0b111001
  | .reservedSpecial111101 rest => codeType rest 0b111101
  | .reservedRegimm00100 rs imm => iType 0b000001 rs 0b00100 imm
  | .reservedRegimm00101 rs imm => iType 0b000001 rs 0b00101 imm
  | .reservedRegimm00110 rs imm => iType 0b000001 rs 0b00110 imm
  | .reservedRegimm00111 rs imm => iType 0b000001 rs 0b00111 imm
  | .reservedRegimm01101 rs imm => iType 0b000001 rs 0b01101 imm
  | .reservedRegimm01111 rs imm => iType 0b000001 rs 0b01111 imm
  | .reservedRegimm10100 rs imm => iType 0b000001 rs 0b10100 imm
  | .reservedRegimm10101 rs imm => iType 0b000001 rs 0b10101 imm
  | .reservedRegimm10110 rs imm => iType 0b000001 rs 0b10110 imm
  | .reservedRegimm10111 rs imm => iType 0b000001 rs 0b10111 imm
  | .reservedRegimm11000 rs imm => iType 0b000001 rs 0b11000 imm
  | .reservedRegimm11001 rs imm => iType 0b000001 rs 0b11001 imm
  | .reservedRegimm11010 rs imm => iType 0b000001 rs 0b11010 imm
  | .reservedRegimm11011 rs imm => iType 0b000001 rs 0b11011 imm
  | .reservedRegimm11100 rs imm => iType 0b000001 rs 0b11100 imm
  | .reservedRegimm11101 rs imm => iType 0b000001 rs 0b11101 imm
  | .reservedRegimm11110 rs imm => iType 0b000001 rs 0b11110 imm
  | .reservedRegimm11111 rs imm => iType 0b000001 rs 0b11111 imm
  | .cop3 rest => jType 0b010011 rest
  | .lwc3 rt offset base => iType 0b110011 base rt offset
  | .swc3 rt offset base => iType 0b111011 base rt offset
  | .ldc3 rt offset base => iType 0b110111 base rt offset
  | .sdc3 rt offset base => iType 0b111111 base rt offset

/-- A word as the hardware stores it: its four bytes, lowest address first (20_memory.md R42, R43). -/
def bytesOfWord (bigEndian : Bool) (w : Word) : List Byte :=
  let bytes : List Byte := [w.extractLsb' 24 8, w.extractLsb' 16 8, w.extractLsb' 8 8, w.extractLsb' 0 8]
  if bigEndian then bytes else bytes.reverse

/-- The instruction the decoder reads, under the default parameters, from an instruction whose low `nbits` bits are those
of `w` and whose other bits are zero, numbered as opcode_table.json numbers them, or none where it refuses. -/
def decodeTableWord (nbits w : Nat) : Option Instr :=
  let word : Word := BitVec.ofNat 32 (w % 2 ^ nbits)
  match bytesOfWord Config.default.bigEndian word with
  | [b0, b1, b2, b3] => (decodeBytes Config.default b0 b1 b2 b3).toOption
  | _ => none

end Sys2Proof
end

