-- ==== Sys2Proof/Machine/State.lean ====
section
/-! DEFINITION. The machine's state: the table of 10_state.md R33, the record of 60_exceptions.md R310, the parameters of
the run (00_scope.md R7) and the model's own bookkeeping, all plain data. -/

namespace Sys2Proof.Machine

/-- The width of a load linked or store conditional: LL and SC, or LLD and SCD (43_atomic_prefetch_sync.md R196). -/
inductive LinkWidth where
  | word
  | doubleword
deriving DecidableEq, Repr

/-- The exceptions with their payloads: the complete list of 60_exceptions.md R300. -/
inductive Exception where
  /-- R301. -/
  | reservedInstruction
  /-- R302; the payload is the coprocessor number. -/
  | coprocessorUnusable (z : Fin 4)
  /-- R303, a load, a load linked or a fetch; the payload is the bad address. -/
  | addressErrorLoad (addr : Addr)
  /-- R303, a store or a store conditional; the payload is the bad address. -/
  | addressErrorStore (addr : Addr)
  /-- R304; the address and the kind of the access. -/
  | memoryFault (addr : Addr) (kind : AccessKind)
  /-- R305. -/
  | integerOverflow
  /-- R306; the 10-bit `code`, 0 for the immediate forms. -/
  | trap (code : BitVec 10)
  /-- R307; the 20-bit `code`. -/
  | systemCall (code : BitVec 20)
  /-- R307; the 20-bit `code`. -/
  | breakpoint (code : BitVec 20)
deriving DecidableEq, Repr

/-- The record of a stop (60_exceptions.md R310, R311): the exception with its payload, the restart address and the
branch-delay bit. -/
structure ExceptionRecord where
  exception : Exception
  restartPC : Addr
  bd : Bool
deriving DecidableEq, Repr

/-- The destinations of the last two instructions executed, where each was an MFHI (for HI; MFLO for LO) and its register
still holds the value it read. The model's own: it is read only under the alternative treatment of the hazard of
70_reset_and_hazards.md R350 (log entry 12). -/
structure ReadWindow where
  last : Option RegIdx
  prev : Option RegIdx
deriving DecidableEq, Repr

/-- Memory: the bytes that hold a value, by address, addresses strictly rising. An address that is not listed holds no
value of its own and reads as `Config.launchByte` (20_memory.md R41, 70_reset_and_hazards.md R341; log entry 4). -/
abbrev Memory := List Host.Cell

/-- The state of the processor and its memory. -/
structure State where
  /-- `x[0]` to `x[31]` (10_state.md R20, R33). Slot 0 is never read or written: R21 is in `State.reg` and `State.setReg`. -/
  gpr : Vector DWord 32
  /-- `HI` (R29). -/
  hi : DWord
  /-- `LO` (R29). -/
  lo : DWord
  /-- `pc`: the address of the instruction being executed (R24). -/
  pc : Addr
  /-- `npc`: the address of the instruction executed next (R24). -/
  npc : Addr
  /-- `inDelaySlot` (R26). -/
  inDelaySlot : Bool
  /-- `LLbit` (R31). -/
  llBit : Bool
  /-- `LLaddr` (R32). -/
  llAddr : Addr
  /-- The width of the last LL or LLD, none before the first. The model's own (43_atomic_prefetch_sync.md R196; log entry 11). -/
  llWidth : Option LinkWidth
  /-- Nothing of 43_atomic_prefetch_sync.md R191 (b) has happened since the last LL or LLD. The model's own (log entry 10). -/
  llIntact : Bool
  /-- The 2048-byte block that holds the last LL or LLD instruction. The model's own (R191 (b); log entry 10). -/
  llBlock : BitVec 53
  /-- `hiGuard` (70_reset_and_hazards.md R350). -/
  hiGuard : BitVec 2
  /-- `loGuard` (R350). -/
  loGuard : BitVec 2
  /-- The recent MFHI destinations. The model's own (R350's alternative; log entry 12). -/
  hiReads : ReadWindow
  /-- The recent MFLO destinations. The model's own (log entry 12). -/
  loReads : ReadWindow
  /-- `hiloUnread` (46_muldiv.md R243 (b)). -/
  hiloUnread : Bool
  /-- Memory (R33, 20_memory.md R41). -/
  mem : Memory
  /-- The addresses the run has stored to, strictly rising (20_memory.md R58; log entry 13). -/
  stored : List Nat
  /-- The record of the exception the machine has stopped at, if it has stopped (60_exceptions.md R310; log entry 7). -/
  exc : Option ExceptionRecord
  /-- How many free values the run has drawn. The model's own (log entry 6). -/
  draws : Nat
  /-- The parameters, fixed for the run (70_reset_and_hazards.md R341; log entry 1). -/
  config : Config
deriving DecidableEq, Repr

/-- Why the machine cannot take a step. -/
inductive Fault where
  /-- Raised by `step` alone, on a state whose exception record is set: the machine has stopped and "no further step is
  taken" (60_exceptions.md R310). Safe. -/
  | halted
deriving DecidableEq, Repr

/-- Why the spec gives no next state: each is one of the spec's own refusals (92_eei_decisions.md). All are safe: the run
has no meaning from that step on, so nothing is claimed of it. -/
inductive Refusal where
  /-- The instruction has no meaning in this model yet (no instruction of the finished model answers so). Safe. -/
  | notModelled (mnemonic : String)
  /-- Answered by the non-CPU entries when `CU[z]` is set (48_non_cpu.md R281, R297, D5). Safe. -/
  | coprocessorEnabled (z : Fin 4)
  /-- Answered by `step` when a byte of the word to be fetched has been stored to in this run (20_memory.md R58, D15). Safe. -/
  | fetchOfStoredByte (pc : Addr)
  /-- Answered by `step` when a must-be-zero field of the instruction named is not zero (30_encoding.md R79, D16). Safe. -/
  | mustBeZeroField (i : Instr)
  /-- Answered by a write of HI or LO within two instructions of MFHI or MFLO, under `HiLoHazard` = refuse
  (70_reset_and_hazards.md R350, D17). Safe. -/
  | hiLoHazard
  /-- Answered by a jump or branch in a delay slot (40_jump_branch.md R113, D18). Safe. -/
  | branchInDelaySlot
  /-- Answered by JALR with `rs = rd` (40_jump_branch.md R120, D18). Safe. -/
  | jalrSameRegister
  /-- Answered by BLTZAL, BGEZAL, BLTZALL and BGEZALL with `rs` = 31 (40_jump_branch.md R129 to R132, D18). Safe. -/
  | linkRegisterTested
deriving DecidableEq, Repr

/-- The launch state of a run under the parameters `c` with the launch memory `m` (70_reset_and_hazards.md R341). The
values the spec leaves unspecified stand at zero; DESIGN CHOICE, unsafe: log entry 3. `Sys2Proof.Machine.State.IsLaunch` in Safety.lean
is the launch state with those left free. -/
def State.launch (c : Config) (m : Memory) : State where
  gpr := Vector.replicate 32 0
  hi := 0
  lo := 0
  pc := c.entryPC
  npc := c.entryPC + 4
  inDelaySlot := false
  llBit := false
  llAddr := 0
  llWidth := none
  llIntact := false
  llBlock := 0
  hiGuard := 0
  loGuard := 0
  hiReads := ⟨none, none⟩
  loReads := ⟨none, none⟩
  hiloUnread := false
  mem := m
  stored := []
  exc := none
  draws := 0
  config := c

/-- The machine at reset: the launch state under the default parameters, with nothing in memory (R341; log entries 2 to 4). -/
def State.reset : State := State.launch Config.default []

end Sys2Proof.Machine
end

