-- ==== Sys2Proof/Machine/Ops.lean ====
section
/-! DEFINITION. The operations the meanings are made of: registers, free values, memory, address checks, taking an
exception, and the end of an instruction. -/

namespace Sys2Proof.Machine

/-- What an instruction answers. -/
abbrev Result := Host.Outcome State Fault Refusal

/-! ### General registers (10_state.md R20 to R22) -/

/-- `x[i]`: register 0 reads as 0 (R21). -/
def State.reg (s : State) (i : RegIdx) : DWord :=
  if i = 0 then 0 else s.gpr[i.toNat]'i.isLt

/-- The window without the register: another value has been written to it. -/
def ReadWindow.forget (w : ReadWindow) (i : RegIdx) : ReadWindow where
  last := if w.last = some i then none else w.last
  prev := if w.prev = some i then none else w.prev

/-- `x[i] <- v`: a write to register 0 is discarded (R21). The register no longer holds what an earlier MFHI or MFLO put
into it. -/
def State.setReg (s : State) (i : RegIdx) (v : DWord) : State :=
  { s with
    gpr := if i = 0 then s.gpr else s.gpr.set i.toNat v i.isLt
    hiReads := s.hiReads.forget i
    loReads := s.loReads.forget i }

/-! ### Free values (00_scope.md R11 `any`; log entry 6) -/

/-- The free 64-bit value of the next draw. -/
def State.anyWord (s : State) : DWord := Config.freeWord s.draws

/-- The free bit of the next draw. -/
def State.anyBit (s : State) : Bool := Config.freeBit s.draws

/-- The state after one draw. -/
def State.drawn (s : State) : State := { s with draws := s.draws + 1 }

/-- `x[i] <- any`. -/
def State.setRegAny (s : State) (i : RegIdx) : State := s.drawn.setReg i s.anyWord

/-! ### Taking an exception (60_exceptions.md R308 to R311) -/

/-- The restart address of R311: that of the instruction, or of the branch before it when it is in a delay slot. -/
def State.restartPC (s : State) : Addr := if s.inDelaySlot then s.pc - 4 else s.pc

/-- The record of R310 and R311 for the exception `e` raised by the instruction at `pc`. -/
def State.recordOf (s : State) (e : Exception) : ExceptionRecord where
  exception := e
  restartPC := s.restartPC
  bd := s.inDelaySlot

/-- The state in which the machine has stopped at the exception: the state before the instruction, with the record (R310).
There is no return from it in the model (R313). -/
def State.stopAt (s : State) (e : Exception) : State := { s with exc := some (s.recordOf e) }

/-- `raise e`: the machine takes the exception (R310). -/
def State.raise (s : State) (e : Exception) : Result := .next (s.stopAt e)

/-- An instruction of a level raises Reserved Instruction where the level is reserved (60_exceptions.md R301 (b), (e)), and
otherwise answers `k`. -/
def atLevel (level : ISAMode) (s : State) (k : Result) : Result :=
  if reserves s.config level then s.raise .reservedInstruction else k

/-! ### The end of an instruction (10_state.md R25, R26; 70_reset_and_hazards.md R350, R357) -/

/-- Where control goes after an instruction (70_reset_and_hazards.md R357 step 6). -/
inductive Flow where
  | next
  | transfer (target : Addr)
  | notTaken
  | nullify
deriving DecidableEq, Repr

/-- The `pc` after the instruction (10_state.md R25). -/
def Flow.pcAfter (f : Flow) (npc : Addr) : Addr :=
  match f with
  | .next | .transfer _ | .notTaken => npc
  | .nullify => npc + 4

/-- The `npc` after the instruction (R25). -/
def Flow.npcAfter (f : Flow) (npc : Addr) : Addr :=
  match f with
  | .next | .notTaken => npc + 4
  | .transfer target => target
  | .nullify => npc + 8

/-- `inDelaySlot` after the instruction (R26, 70_reset_and_hazards.md R357): a jump or a branch that does not nullify its
slot sets it. -/
def Flow.slotAfter (f : Flow) : Bool :=
  match f with
  | .next | .nullify => false
  | .transfer _ | .notTaken => true

/-- `max (guard - 1) 0` (70_reset_and_hazards.md R350). -/
def guardStep (g : BitVec 2) : BitVec 2 := if g = 0 then 0 else g - 1

/-- One more instruction has been executed since the reads of the window. -/
def ReadWindow.shift (w : ReadWindow) : ReadWindow := ⟨none, w.last⟩

/-- The 2048-byte block of an instruction's address (43_atomic_prefetch_sync.md R191 (b)). -/
def blockOf (a : Addr) : BitVec 53 := a.extractLsb' 11 53

/-- The state after an instruction that completes: the program counters (R25), `inDelaySlot` (R26), the HI/LO guards
(70_reset_and_hazards.md R350), and whether the LL sequence still lies in one block (43_atomic_prefetch_sync.md R191 (b)). -/
def State.retire (s : State) (f : Flow) : State :=
  { s with
    pc := f.pcAfter s.npc
    npc := f.npcAfter s.npc
    inDelaySlot := f.slotAfter
    hiGuard := guardStep s.hiGuard
    loGuard := guardStep s.loGuard
    hiReads := s.hiReads.shift
    loReads := s.loReads.shift
    llIntact := s.llIntact && decide (blockOf s.pc = s.llBlock) }

/-- The instruction completes and writes `x[rd] <- v`. -/
def writeResult (s : State) (rd : RegIdx) (v : DWord) : Result := .next ((s.setReg rd v).retire .next)

/-- The instruction completes and writes `x[rd] <- any`. DESIGN CHOICE, safe: the value is any of 64 bits, although
45_alu_register.md R220 also says that the result written is always a word value (log entry 20). -/
def writeAny (s : State) (rd : RegIdx) : Result := .next ((s.setRegAny rd).retire .next)

/-! ### Memory (20_memory.md R40 to R44) -/

/-- The byte listed at an address. -/
def Memory.find : Memory → Nat → Option Byte
  | [], _ => none
  | (k, b) :: m, a => if k = a then some b else Memory.find m a

/-- The memory with the byte at the address set; addresses stay strictly rising. -/
def Memory.insert : Memory → Nat → Byte → Memory
  | [], a, v => [(a, v)]
  | (k, b) :: m, a, v =>
    if a < k then (a, v) :: (k, b) :: m
    else if a = k then (a, v) :: m
    else (k, b) :: Memory.insert m a v

/-- A strictly rising list of addresses with one more address. -/
def insertAddr : List Nat → Nat → List Nat
  | [], a => [a]
  | k :: l, a => if a < k then a :: k :: l else if a = k then k :: l else k :: insertAddr l a

/-- Strictly rising, and every number an address. -/
def risingAddrs : List Nat → Bool
  | [] => true
  | [a] => decide (a < 2 ^ 64)
  | a :: b :: l => decide (a < b) && risingAddrs (b :: l)

/-- The canonical form of memory: addresses strictly rising, all of them below 2^64. No byte is what an unlisted address
holds, since it holds no value, so no entry is superfluous. -/
def Memory.wf (m : Memory) : Bool := risingAddrs (m.map Prod.fst)

/-- The byte at an address: the one memory lists, or the free launch byte (log entry 4). -/
def Memory.byte (m : Memory) (a : Addr) : Byte :=
  match m.find a.toNat with
  | some b => b
  | none => Config.launchByte a

/-- The byte at an address. -/
def State.byteAt (s : State) (a : Addr) : Byte := s.mem.byte a

/-- A byte of a value, by its significance (0 is bits 7:0). -/
def byteOf (v : DWord) (i : Nat) : Byte := (v >>> (8 * i)).setWidth 8

/-- The value of bytes given by rising significance. -/
def valueOf : List Byte → DWord
  | [] => 0
  | b :: bs => b.setWidth 64 ||| (valueOf bs <<< 8)

/-- A part of an aligned item in memory: of the `size` bytes from the address `item`, the `count` bytes whose significance
is `low` and up. A whole item has `low` = 0 and `count` = `size`; the unaligned instructions move other parts
(42_load_store.md section 3). -/
structure Lane where
  item : Addr
  size : Nat
  low : Nat
  count : Nat
deriving DecidableEq, Repr

/-- The whole item of `n` bytes at an address. -/
def Lane.whole (a : Addr) (n : Nat) : Lane := ⟨a, n, 0, n⟩

/-- The address of the byte of an item with a given significance (20_memory.md R42). -/
def sigAddr (bigEndian : Bool) (item : Addr) (size sig : Nat) : Addr :=
  item + BitVec.ofNat 64 (if bigEndian then size - 1 - sig else sig)

/-- The addresses of a lane's bytes, by rising significance. -/
def Lane.addrs (bigEndian : Bool) (l : Lane) : List Addr :=
  (List.range l.count).map fun i => sigAddr bigEndian l.item l.size (l.low + i)

/-- The value in a lane, zero-extended: `MemRead` for a whole item (20_memory.md R42), `mem[8*(low+count)-1 : 8*low]` for a
part. -/
def State.readLane (s : State) (l : Lane) : DWord := valueOf ((l.addrs s.config.bigEndian).map s.byteAt)

/-- One byte is stored, and the run has stored to its address (20_memory.md R58). -/
def State.storeByte (s : State) (a : Addr) (b : Byte) : State :=
  { s with mem := Memory.insert s.mem a.toNat b, stored := insertAddr s.stored a.toNat }

/-- Bytes are stored one after another. -/
def State.storeBytes : State → List (Addr × Byte) → State
  | s, [] => s
  | s, (a, b) :: l => (s.storeByte a b).storeBytes l

/-- The low bytes of a value are stored into a lane: `MemWrite` for a whole item (20_memory.md R42). -/
def State.writeLane (s : State) (l : Lane) (v : DWord) : State :=
  s.storeBytes ((List.range l.count).map fun i =>
    (sigAddr s.config.bigEndian l.item l.size (l.low + i), byteOf v i))

/-! ### Address checks (20_memory.md R45, R46, R49; 60_exceptions.md R303, R304) -/

/-- The region holds the address. -/
def regionHolds (r : Region) (a : Addr) : Bool := decide (r.first.toNat ≤ a.toNat ∧ a.toNat ≤ r.last.toNat)

/-- The region's answer to an access of a kind. -/
def regionAnswer (r : Region) : AccessKind → Permission
  | .fetch => r.fetch
  | .load => r.load
  | .store => r.store

/-- The address map's answer for one byte: that of the first region that holds it, and `MemoryFault` where none does. -/
def byteAnswer : List Region → AccessKind → Addr → Permission
  | [], _, _ => .memoryFault
  | r :: rs, k, a => if regionHolds r a then regionAnswer r k else byteAnswer rs k a

/-- The Address Error exception of an access of a kind (60_exceptions.md R303): Load for a load and a fetch, Store for a
store. -/
def addressErrorOf (k : AccessKind) (ea : Addr) : Exception :=
  match k with
  | .fetch | .load => .addressErrorLoad ea
  | .store => .addressErrorStore ea

/-- `ValidAddr` for the bytes an access moves (20_memory.md R49): none where every byte may be accessed; Address Error where
the platform says a byte is outside what the mode may touch (60_exceptions.md R303 (c)); else `MemoryFault` (R304). Both
report the effective address (R304; log entry 5). -/
def accessFault (c : Config) (k : AccessKind) (addrs : List Addr) (ea : Addr) : Option Exception :=
  let answers := addrs.map (byteAnswer c.regions k)
  if answers.all (fun p => decide (p = .allowed)) then none
  else if answers.any (fun p => decide (p = .addressError)) then some (addressErrorOf k ea)
  else some (.memoryFault ea k)

/-- The address is a multiple of the access size (20_memory.md R45). -/
def aligned (a : Addr) (n : Nat) : Bool := decide (a.toNat % n = 0)

/-! ### Loads and stores (42_load_store.md R160) -/

/-- A load, a store or a PREF has been executed since the last LL or LLD (43_atomic_prefetch_sync.md R191 (b)). -/
def State.accessed (s : State) : State := { s with llIntact := false }

/-- A load of a lane: the address check, then `x[rt]` becomes `post` of the value read (R160). -/
def loadLane (s : State) (rt : RegIdx) (ea : Addr) (l : Lane) (post : DWord → DWord) : Result :=
  match accessFault s.config .load (l.addrs s.config.bigEndian) ea with
  | some e => s.raise e
  | none => .next ((s.accessed.setReg rt (post (s.readLane l))).retire .next)

/-- A store into a lane: the address check, then the write (R160). -/
def storeLane (s : State) (ea : Addr) (l : Lane) (v : DWord) : Result :=
  match accessFault s.config .store (l.addrs s.config.bigEndian) ea with
  | some e => s.raise e
  | none => .next ((s.accessed.writeLane l v).retire .next)

/-- An aligned load of `n` bytes (20_memory.md R45). -/
def loadAligned (s : State) (n : Nat) (rt : RegIdx) (ea : Addr) (post : DWord → DWord) : Result :=
  if aligned ea n then loadLane s rt ea (Lane.whole ea n) post else s.raise (.addressErrorLoad ea)

/-- An aligned store of `n` bytes (20_memory.md R45). -/
def storeAligned (s : State) (n : Nat) (ea : Addr) (v : DWord) : Result :=
  if aligned ea n then storeLane s ea (Lane.whole ea n) v else s.raise (.addressErrorStore ea)

/-! ### The fetch (20_memory.md R43, R46, R58) -/

/-- The four bytes of the instruction at `pc`, lowest address first. -/
def State.fetchAddrs (s : State) : List Addr := [s.pc, s.pc + 1, s.pc + 2, s.pc + 3]

/-- A byte of the instruction at `pc` has been stored to in this run (20_memory.md R58). -/
def State.fetchStored (s : State) : Bool := s.fetchAddrs.any fun a => decide (a.toNat ∈ s.stored)

/-- The decoder's answer for the four bytes at `pc` (20_memory.md R43). -/
def State.fetched (s : State) : Except DecodeError Instr :=
  decodeBytes s.config (s.byteAt s.pc) (s.byteAt (s.pc + 1)) (s.byteAt (s.pc + 2)) (s.byteAt (s.pc + 3))

/-- One step around the execution `run` of the instruction fetched (70_reset_and_hazards.md R357). The order is that of
60_exceptions.md R309: the fetch's alignment, its address check, the refusal of a byte the run has stored to (20_memory.md
R58), decoding, and the instruction. A machine that has stopped takes no step (60_exceptions.md R310). -/
def fetchAndRun (s : State) (run : Instr → Result) : Result :=
  if s.exc.isSome then .fault .halted
  else if !aligned s.pc 4 then s.raise (.addressErrorLoad s.pc)
  else match accessFault s.config .fetch s.fetchAddrs s.pc with
    | some e => s.raise e
    | none =>
      if s.fetchStored then .refused (.fetchOfStoredByte s.pc)
      else match s.fetched with
        | .ok i => run i
        | .error (.mustBeZeroField i) => .refused (.mustBeZeroField i)

/-- A byte is placed at the address by the environment, not by the run: it is no longer a byte the run has stored, which a
fetch would refuse (log entry 16). -/
def State.placeByte (s : State) (a : Addr) (b : Byte) : State :=
  { s with mem := Memory.insert s.mem a.toNat b, stored := s.stored.filter fun k => decide (k ≠ a.toNat) }

/-- The bytes are placed at the addresses by the environment. -/
def State.place : State → List (Addr × Byte) → State
  | s, [] => s
  | s, (a, b) :: l => (s.placeByte a b).place l

/-- The word is loaded at `pc` by the environment, in the byte order of the machine (20_memory.md R43; log entry 16). -/
def State.placeWord (s : State) (w : Word) : State :=
  s.place (s.fetchAddrs.zip (bytesOfWord s.config.bigEndian w))

/-! ### Control transfer (40_jump_branch.md R112 to R114) -/

/-- A jump or branch: refused in a delay slot (R113, D18), otherwise `k`. -/
def outsideSlot (s : State) (k : Result) : Result :=
  if s.inDelaySlot then .refused .branchInDelaySlot else k

/-- A jump to an address, after the delay slot (R112). -/
def jumpTo (s : State) (target : Addr) : Result := .next (s.retire (.transfer target))

/-- The address of the instruction after the delay slot: the link value (R112). -/
def State.linkValue (s : State) : Addr := s.pc + 8

/-- A conditional branch whose delay slot is executed in either case (R112). -/
def branchIf (s : State) (cond : Bool) (target : Addr) : Result :=
  .next (s.retire (if cond then .transfer target else .notTaken))

/-- A branch likely: its delay slot is nullified if it is not taken (R114). -/
def branchLikelyIf (s : State) (cond : Bool) (target : Addr) : Result :=
  .next (s.retire (if cond then .transfer target else .nullify))

/-! ### HI and LO (46_muldiv.md R240 to R243, 70_reset_and_hazards.md R350) -/

/-- A destination of a window becomes any value, if there is one (R350's alternative). -/
def State.clobber (s : State) (r : Option RegIdx) : State :=
  match r with
  | none => s
  | some i => s.setRegAny i

/-- The destinations of a window become any value (R350's alternative). -/
def State.clobberReads (s : State) (w : ReadWindow) : State := (s.clobber w.last).clobber w.prev

/-- The guard test of R350 before a write of HI: no read is guarded, or the run is refused, or the guarded destinations
become any value. -/
def guardHi (s : State) (k : State → Result) : Result :=
  if s.hiGuard = 0 then k s
  else match s.config.hiLoHazard with
    | .refuse => .refused .hiLoHazard
    | .destinationAny => k (s.clobberReads s.hiReads)

/-- The guard test of R350 before a write of LO. -/
def guardLo (s : State) (k : State → Result) : Result :=
  if s.loGuard = 0 then k s
  else match s.config.hiLoHazard with
    | .refuse => .refused .hiLoHazard
    | .destinationAny => k (s.clobberReads s.loReads)

/-- HI and LO hold the result of a multiply or divide, which nothing has read yet (R240, R243 (b)). -/
def State.withHiLo (s : State) (hi lo : DWord) : State := { s with hi := hi, lo := lo, hiloUnread := true }

/-- `HI <- v`. -/
def State.withHi (s : State) (v : DWord) : State := { s with hi := v }

/-- `LO <- v`. -/
def State.withLo (s : State) (v : DWord) : State := { s with lo := v }

/-- A multiply or divide completes with the values of HI and LO. -/
def writeHiLo (s : State) (hi lo : DWord) : Result := .next ((s.withHiLo hi lo).retire .next)

/-- A multiply or divide completes with HI and LO any values (R241, R242). DESIGN CHOICE, safe: after a word form too they
are any of 64 bits each, although R241 also says that HI and LO are word values afterwards (log entry 20). -/
def writeHiLoAny (s : State) : Result := writeHiLo s.drawn.drawn s.anyWord s.drawn.anyWord

/-- What a multiply or divide does with a result of its arithmetic: HI and LO, or neither defined. -/
def finishMulDiv (s : State) (r : Option (DWord × DWord)) : Result :=
  match r with
  | some (hi, lo) => writeHiLo s hi lo
  | none => writeHiLoAny s

end Sys2Proof.Machine
end

