-- ==== Sys2Proof/Machine/Operands.lean ====
section
/-! DEFINITION. The operand forms: immediates (30_encoding.md R76), effective addresses (20_memory.md R52), branch and jump
targets (40_jump_branch.md R110, R111), words in registers (00_scope.md R10), shift amounts (44_shift.md R200), and the
lanes of the unaligned loads and stores (42_load_store.md section 3). -/

namespace Sys2Proof.Machine

/-! ### Values -/

/-- `v[31:0]`. -/
def low32 (v : DWord) : Word := v.setWidth 32

/-- `sext32to64` (00_scope.md R10). -/
def sext32 (w : Word) : DWord := w.signExtend 64

/-- A word value: the sign extension of its low 32 bits (00_scope.md R10). -/
def isWordValue (v : DWord) : Bool := decide (v = sext32 (low32 v))

/-- 1 or 0: the result of a comparison (10_state.md R27). -/
def boolValue (b : Bool) : DWord := if b then 1 else 0

/-! ### Immediates (30_encoding.md R76) -/

/-- The arithmetic and comparison operand, `sext_64(immediate)`. -/
def signImm (imm : BitVec 16) : DWord := imm.signExtend 64

/-- The same immediate for a word operation, `sext_32(immediate)` (41_alu_immediate.md R145). -/
def signImm32 (imm : BitVec 16) : Word := imm.signExtend 32

/-- The logical operand, `zext_64(immediate)`. -/
def zeroImm (imm : BitVec 16) : DWord := imm.setWidth 64

/-- The upper immediate, `sext_64(immediate || 0^16)`. -/
def upperImm (imm : BitVec 16) : DWord := sext32 (imm ++ 0#16)

/-! ### Addresses -/

/-- The effective address, `x[base] + sext_64(offset)` (20_memory.md R52). -/
def effectiveAddr (s : State) (offset : BitVec 16) (base : RegIdx) : Addr := s.reg base + signImm offset

/-- The target of a branch (40_jump_branch.md R110). -/
def branchTarget (pc : Addr) (offset : BitVec 16) : Addr := pc + 4 + (offset ++ 0#2).signExtend 64

/-- The target of J and JAL (40_jump_branch.md R111): the upper 36 bits are those of the delay slot's address. -/
def jumpTarget (pc : Addr) (index : BitVec 26) : Addr := ((pc + 4).extractLsb' 28 36 ++ index) ++ 0#2

/-! ### Loaded values (42_load_store.md R161) -/

/-- Sign extension of the low 8 bits: LB. -/
def sext8Of (v : DWord) : DWord := (v.setWidth 8).signExtend 64
/-- Sign extension of the low 16 bits: LH. -/
def sext16Of (v : DWord) : DWord := (v.setWidth 16).signExtend 64
/-- Sign extension of the low 32 bits: LW, LL. -/
def sext32Of (v : DWord) : DWord := sext32 (low32 v)
/-- The value read, which is zero-extended already: LBU, LHU, LWU; and the whole of it: LD, LLD. -/
def asRead (v : DWord) : DWord := v

/-! ### The unaligned loads and stores (42_load_store.md R172 to R179) -/

/-- `A`: the address with its low bits cleared, the aligned item of `n` bytes that holds it. -/
def itemOf (ea : Addr) (n : Nat) : Addr := ea - BitVec.ofNat 64 (ea.toNat % n)

/-- `byte`: the significance, within the item, of the byte the address names. -/
def sigOf (bigEndian : Bool) (ea : Addr) (n : Nat) : Nat :=
  if bigEndian then n - 1 - ea.toNat % n else ea.toNat % n

/-- The left part: the bytes of significance `byte` down to 0. -/
def leftLane (bigEndian : Bool) (ea : Addr) (n : Nat) : Lane := ⟨itemOf ea n, n, 0, sigOf bigEndian ea n + 1⟩

/-- The right part: the bytes of significance `byte` up to `n - 1`. -/
def rightLane (bigEndian : Bool) (ea : Addr) (n : Nat) : Lane :=
  ⟨itemOf ea n, n, sigOf bigEndian ea n, n - sigOf bigEndian ea n⟩

/-- LWL: `mem[8*byte+7 : 0] || x[rt][23-8*byte : 0]`, sign-extended (R172). -/
def mergeLeft32 (byte : Nat) (old part : DWord) : DWord :=
  let keep := 24 - 8 * byte
  sext32 ((low32 part <<< keep) ||| (low32 old &&& ((1#32 <<< keep) - 1#32)))

/-- The word that LWR merges: `x[rt][31 : 32-8*byte] || mem[31 : 8*byte]` (R173). -/
def mergeRightWord (byte : Nat) (old part : DWord) : Word :=
  let moved := 32 - 8 * byte
  ((low32 old >>> moved) <<< moved) ||| low32 part

/-- LWR: the merged word, with bits 63:32 its sign extension where bit 31 was loaded and otherwise as the policy says
(R173, D8). -/
def mergeRight32 (policy : LWRUpperPolicy) (byte : Nat) (old part : DWord) : DWord :=
  if byte = 0 then sext32 (mergeRightWord byte old part)
  else match policy with
    | .sext => sext32 (mergeRightWord byte old part)
    | .keep => old.extractLsb' 32 32 ++ mergeRightWord byte old part

/-- LDL: `mem[8*byte+7 : 0] || x[rt][55-8*byte : 0]` (R174). -/
def mergeLeft64 (byte : Nat) (old part : DWord) : DWord :=
  let keep := 56 - 8 * byte
  (part <<< keep) ||| (old &&& ((1#64 <<< keep) - 1#64))

/-- LDR: `x[rt][63 : 64-8*byte] || mem[63 : 8*byte]` (R175). -/
def mergeRight64 (byte : Nat) (old part : DWord) : DWord :=
  let moved := 64 - 8 * byte
  ((old >>> moved) <<< moved) ||| part

/-- SWL: the bytes `x[rt][31 : 24-8*byte]`, lowest first (R176). -/
def storedLeft32 (byte : Nat) (v : DWord) : DWord := (low32 v >>> (24 - 8 * byte)).setWidth 64

/-- SDL: the bytes `x[rt][63 : 56-8*byte]`, lowest first (R178). -/
def storedLeft64 (byte : Nat) (v : DWord) : DWord := v >>> (56 - 8 * byte)

/-! ### Shift amounts (44_shift.md R200) -/

/-- `x[rs][4:0]`. -/
def amount5 (v : DWord) : Nat := (v.setWidth 5).toNat

/-- `x[rs][5:0]`. -/
def amount6 (v : DWord) : Nat := (v.setWidth 6).toNat

end Sys2Proof.Machine
end

