-- ==== Sys2Proof/Machine/Flags.lean ====
section
/-! DEFINITION. Overflow and conditions. The CPU has no flags and no condition codes (10_state.md R27): a signed overflow
raises an exception and a comparison writes 1 or 0, decides a branch or decides a trap. -/

namespace Sys2Proof.Machine

/-! ### Signed overflow (41_alu_immediate.md R142, 45_alu_register.md R221) -/

/-- The 33-bit sum's low 32 bits, or none where bit 32 differs from bit 31. -/
def add32 (a b : Word) : Option Word :=
  let temp33 := a.signExtend 33 + b.signExtend 33
  if temp33.getLsbD 32 = temp33.getLsbD 31 then some (temp33.setWidth 32) else none

/-- The 33-bit difference's low 32 bits, or none where bit 32 differs from bit 31. -/
def sub32 (a b : Word) : Option Word :=
  let temp33 := a.signExtend 33 - b.signExtend 33
  if temp33.getLsbD 32 = temp33.getLsbD 31 then some (temp33.setWidth 32) else none

/-- The 65-bit sum's low 64 bits, or none where bit 64 differs from bit 63. -/
def add64 (a b : DWord) : Option DWord :=
  let temp65 := a.signExtend 65 + b.signExtend 65
  if temp65.getLsbD 64 = temp65.getLsbD 63 then some (temp65.setWidth 64) else none

/-- The 65-bit difference's low 64 bits, or none where bit 64 differs from bit 63. -/
def sub64 (a b : DWord) : Option DWord :=
  let temp65 := a.signExtend 65 - b.signExtend 65
  if temp65.getLsbD 64 = temp65.getLsbD 63 then some (temp65.setWidth 64) else none

/-! ### Comparisons (00_scope.md R10 `signed`, `unsigned`) -/

/-- `signed(a) < signed(b)`. -/
def ltSigned (a b : DWord) : Bool := decide (a.toInt < b.toInt)

/-- `unsigned(a) < unsigned(b)`. -/
def ltUnsigned (a b : DWord) : Bool := decide (a.toNat < b.toNat)

/-- `a = b`. -/
def equal (a b : DWord) : Bool := decide (a = b)

/-! ### What an overflow and a word precondition do (R141, R142; 45_alu_register.md R220, R221) -/

/-- A doubleword operation that traps on overflow: the result, or `IntegerOverflow` with the destination not written. -/
def trappingResult64 (s : State) (rd : RegIdx) (r : Option DWord) : Result :=
  match r with
  | some v => writeResult s rd v
  | none => s.raise .integerOverflow

/-- A word operation without a trap: the sign-extended word if the precondition holds, else any value (D11). -/
def wordResult (s : State) (ok : Bool) (rd : RegIdx) (v : Word) : Result :=
  if ok then writeResult s rd (sext32 v) else writeAny s rd

/-- A word operation that traps on overflow. Where the precondition does not hold, whether the exception is raised is a free
choice, and the destination is any value where it is not (D11). -/
def trappingWordResult (s : State) (ok : Bool) (rd : RegIdx) (r : Option Word) : Result :=
  if ok then
    match r with
    | some v => writeResult s rd (sext32 v)
    | none => s.raise .integerOverflow
  else if s.anyBit then s.drawn.raise .integerOverflow
  else writeAny s.drawn rd

/-! ### Conditional traps (47_trap_system.md R260) -/

/-- The trap exception if the condition holds, else nothing (R260, 60_exceptions.md R306). -/
def trapIf (s : State) (cond : Bool) (code : BitVec 10) : Result :=
  if cond then s.raise (.trap code) else .next (s.retire .next)

end Sys2Proof.Machine
end

