-- ==== Sys2Proof/Machine/AluImmediate.lean ====
section
/-! DEFINITION. Arithmetic and logical instructions with an immediate operand (41_alu_immediate.md). -/

namespace Sys2Proof.Machine

/-! ### Word operations -/

/-- ADDI: traps on overflow (R144, R141). -/
def execAddi (rt rs : RegIdx) (imm : BitVec 16) (s : State) : Result :=
  trappingWordResult s (isWordValue (s.reg rs)) rt (add32 (low32 (s.reg rs)) (signImm32 imm))

/-- ADDIU: no trap, the immediate is sign-extended (R145, R141). -/
def execAddiu (rt rs : RegIdx) (imm : BitVec 16) (s : State) : Result :=
  wordResult s (isWordValue (s.reg rs)) rt (low32 (s.reg rs) + signImm32 imm)

/-- LUI (R151). -/
def execLui (rt : RegIdx) (imm : BitVec 16) (s : State) : Result :=
  writeResult s rt (upperImm imm)

/-! ### Operations on all 64 bits -/

/-- SLTI (R146). -/
def execSlti (rt rs : RegIdx) (imm : BitVec 16) (s : State) : Result :=
  writeResult s rt (boolValue (ltSigned (s.reg rs) (signImm imm)))

/-- SLTIU: the immediate is sign-extended, the comparison unsigned (R147). -/
def execSltiu (rt rs : RegIdx) (imm : BitVec 16) (s : State) : Result :=
  writeResult s rt (boolValue (ltUnsigned (s.reg rs) (signImm imm)))

/-- ANDI (R148). -/
def execAndi (rt rs : RegIdx) (imm : BitVec 16) (s : State) : Result :=
  writeResult s rt (s.reg rs &&& zeroImm imm)

/-- ORI (R149). -/
def execOri (rt rs : RegIdx) (imm : BitVec 16) (s : State) : Result :=
  writeResult s rt (s.reg rs ||| zeroImm imm)

/-- XORI (R150). -/
def execXori (rt rs : RegIdx) (imm : BitVec 16) (s : State) : Result :=
  writeResult s rt (s.reg rs ^^^ zeroImm imm)

/-- DADDI: traps on overflow (R152, R143). -/
def execDaddi (rt rs : RegIdx) (imm : BitVec 16) (s : State) : Result :=
  atLevel .III s (trappingResult64 s rt (add64 (s.reg rs) (signImm imm)))

/-- DADDIU (R153, R143). -/
def execDaddiu (rt rs : RegIdx) (imm : BitVec 16) (s : State) : Result :=
  atLevel .III s (writeResult s rt (s.reg rs + signImm imm))

end Sys2Proof.Machine
end

