-- ==== Sys2Proof/Machine/AluRegister.lean ====
section
/-! DEFINITION. Three-register arithmetic, logical, compare and conditional-move instructions (45_alu_register.md). -/

namespace Sys2Proof.Machine

/-! ### Add and subtract -/

/-- ADD: traps on overflow (R223, R220). -/
def execAdd (rd rs rt : RegIdx) (s : State) : Result :=
  trappingWordResult s (isWordValue (s.reg rs) && isWordValue (s.reg rt)) rd (add32 (low32 (s.reg rs)) (low32 (s.reg rt)))

/-- ADDU (R224, R220). -/
def execAddu (rd rs rt : RegIdx) (s : State) : Result :=
  wordResult s (isWordValue (s.reg rs) && isWordValue (s.reg rt)) rd (low32 (s.reg rs) + low32 (s.reg rt))

/-- SUB: traps on overflow (R225, R220). -/
def execSub (rd rs rt : RegIdx) (s : State) : Result :=
  trappingWordResult s (isWordValue (s.reg rs) && isWordValue (s.reg rt)) rd (sub32 (low32 (s.reg rs)) (low32 (s.reg rt)))

/-- SUBU (R226, R220). -/
def execSubu (rd rs rt : RegIdx) (s : State) : Result :=
  wordResult s (isWordValue (s.reg rs) && isWordValue (s.reg rt)) rd (low32 (s.reg rs) - low32 (s.reg rt))

/-- DADD: traps on overflow (R227, R222). -/
def execDadd (rd rs rt : RegIdx) (s : State) : Result :=
  atLevel .III s (trappingResult64 s rd (add64 (s.reg rs) (s.reg rt)))

/-- DADDU (R228, R222). -/
def execDaddu (rd rs rt : RegIdx) (s : State) : Result :=
  atLevel .III s (writeResult s rd (s.reg rs + s.reg rt))

/-- DSUB: traps on overflow (R229, R222). -/
def execDsub (rd rs rt : RegIdx) (s : State) : Result :=
  atLevel .III s (trappingResult64 s rd (sub64 (s.reg rs) (s.reg rt)))

/-- DSUBU (R230, R222). -/
def execDsubu (rd rs rt : RegIdx) (s : State) : Result :=
  atLevel .III s (writeResult s rd (s.reg rs - s.reg rt))

/-! ### Logical -/

/-- AND (R231). -/
def execAnd (rd rs rt : RegIdx) (s : State) : Result :=
  writeResult s rd (s.reg rs &&& s.reg rt)

/-- OR (R232). -/
def execOr (rd rs rt : RegIdx) (s : State) : Result :=
  writeResult s rd (s.reg rs ||| s.reg rt)

/-- XOR (R233). -/
def execXor (rd rs rt : RegIdx) (s : State) : Result :=
  writeResult s rd (s.reg rs ^^^ s.reg rt)

/-- NOR (R234). -/
def execNor (rd rs rt : RegIdx) (s : State) : Result :=
  writeResult s rd (~~~(s.reg rs ||| s.reg rt))

/-! ### Compare -/

/-- SLT (R235). -/
def execSlt (rd rs rt : RegIdx) (s : State) : Result :=
  writeResult s rd (boolValue (ltSigned (s.reg rs) (s.reg rt)))

/-- SLTU (R236). -/
def execSltu (rd rs rt : RegIdx) (s : State) : Result :=
  writeResult s rd (boolValue (ltUnsigned (s.reg rs) (s.reg rt)))

/-! ### Conditional move -/

/-- MOVZ: where `x[rt]` is not 0, `x[rd]` is not written at all (R237, R222). -/
def execMovz (rd rs rt : RegIdx) (s : State) : Result :=
  atLevel .IV s (if s.reg rt = 0 then writeResult s rd (s.reg rs) else .next (s.retire .next))

/-- MOVN (R238, R222). -/
def execMovn (rd rs rt : RegIdx) (s : State) : Result :=
  atLevel .IV s (if s.reg rt = 0 then .next (s.retire .next) else writeResult s rd (s.reg rs))

end Sys2Proof.Machine
end

