-- ==== Sys2Proof/Machine/Atomic.lean ====
section
/-! DEFINITION. Load linked, store conditional, prefetch, synchronise (43_atomic_prefetch_sync.md). -/

namespace Sys2Proof.Machine

/-- The bytes a link width moves (20_memory.md R47). -/
def linkBytes : LinkWidth → Nat
  | .word => 4
  | .doubleword => 8

/-- The sequence of a load linked begins: `LLbit <- 1`, `LLaddr <- EA` (R192), with what R191 (b) and R196 ask of it later. -/
def State.linked (s : State) (w : LinkWidth) (ea : Addr) : State :=
  { s with llBit := true, llAddr := ea, llWidth := some w, llIntact := true, llBlock := blockOf s.pc }

/-- `LLbit <- b`. -/
def State.withLLbit (s : State) (b : Bool) : State := { s with llBit := b }

/-- The load of LL and LLD (R192, R193): as an aligned load, and the sequence on this address begins. -/
def loadLinked (s : State) (w : LinkWidth) (rt : RegIdx) (ea : Addr) (post : DWord → DWord) : Result :=
  let l := Lane.whole ea (linkBytes w)
  if aligned ea (linkBytes w) then
    match accessFault s.config .load (l.addrs s.config.bigEndian) ea with
    | some e => s.raise e
    | none => .next (((s.linked w ea).setReg rt (post (s.readLane l))).retire .next)
  else s.raise (.addressErrorLoad ea)

/-- The store conditional to `ea` pairs with the last load linked: the same address and the same width (R196). -/
def State.paired (s : State) (w : LinkWidth) (ea : Addr) : Bool :=
  decide (s.llWidth = some w) && decide (s.llAddr = ea)

/-- The sequence since the last load linked obeys R191 (b), and the policy takes the strengthening of R191 (c). -/
def State.mustSucceed (s : State) : Bool :=
  decide (s.config.scPolicy = .succeedsIfIntact) && s.llIntact && decide (blockOf s.pc = s.llBlock)

/-- Whether a store conditional stores (`ok`): `LLbit` and a free choice where it pairs with the last load linked (R191
(c), R194); a free choice where it does not, or where there was none (R196; log entry 9). -/
def State.scOk (s : State) (w : LinkWidth) (ea : Addr) : Bool :=
  if s.paired w ea then s.llBit && (s.mustSucceed || s.anyBit) else s.anyBit

/-- The store of SC and SCD (R194, R195): the address checks come first, whether or not `LLbit` is set; then the store if
`ok`, `LLbit <- any`, and `x[rt] <- ok`. It draws two free bits, the choice and the new `LLbit`. -/
def storeConditional (s : State) (w : LinkWidth) (rt : RegIdx) (ea : Addr) : Result :=
  let l := Lane.whole ea (linkBytes w)
  if aligned ea (linkBytes w) then
    match accessFault s.config .store (l.addrs s.config.bigEndian) ea with
    | some e => s.raise e
    | none =>
      let t := s.drawn.drawn.accessed
      let u := if s.scOk w ea then t.writeLane l (s.reg rt) else t
      .next (((u.withLLbit s.drawn.anyBit).setReg rt (boolValue (s.scOk w ea))).retire .next)
  else s.raise (.addressErrorStore ea)

/-- LL (R192). -/
def execLl (rt : RegIdx) (offset : BitVec 16) (base : RegIdx) (s : State) : Result :=
  loadLinked s .word rt (effectiveAddr s offset base) sext32Of

/-- LLD (R193). -/
def execLld (rt : RegIdx) (offset : BitVec 16) (base : RegIdx) (s : State) : Result :=
  atLevel .III s (loadLinked s .doubleword rt (effectiveAddr s offset base) asRead)

/-- SC (R194). -/
def execSc (rt : RegIdx) (offset : BitVec 16) (base : RegIdx) (s : State) : Result :=
  storeConditional s .word rt (effectiveAddr s offset base)

/-- SCD (R195). -/
def execScd (rt : RegIdx) (offset : BitVec 16) (base : RegIdx) (s : State) : Result :=
  atLevel .III s (storeConditional s .doubleword rt (effectiveAddr s offset base))

/-- PREF: no architectural state changes and no exception is raised, whatever the hint and the address (R197); it counts as an
access between an LL and its SC (R191 (b)). -/
def execPref (_hint : BitVec 5) (_offset : BitVec 16) (_base : RegIdx) (s : State) : Result :=
  atLevel .IV s (.next (s.accessed.retire .next))

/-- SYNC: one processor, in program order, so no register or memory value changes (R198, 20_memory.md R55 (a)). -/
def execSync (s : State) : Result :=
  .next (s.retire .next)

end Sys2Proof.Machine
end

