-- ==== Sys2Proof/Machine/JumpBranch.lean ====
section
/-! DEFINITION. Jumps and branches (40_jump_branch.md). -/

namespace Sys2Proof.Machine

/-! ### Conditions on one register against zero (R116) -/

/-- `signed(v) < 0`. -/
def ltZero (v : DWord) : Bool := decide (v.toInt < 0)
/-- `signed(v) <= 0`. -/
def leZero (v : DWord) : Bool := decide (v.toInt ≤ 0)

/-- A branch that writes `x[31] <- pc + 8`, taken or not, on a condition of the value `x[rs]` had before; refused for
`rs` = 31 (R129 to R132, D18). -/
def linkingBranch (s : State) (rs : RegIdx) (k : State → Result) : Result :=
  outsideSlot s (if rs = 31 then .refused .linkRegisterTested else k (s.setReg 31 s.linkValue))

/-! ### Jumps -/

/-- J (R117). -/
def execJ (index : BitVec 26) (s : State) : Result :=
  outsideSlot s (jumpTo s (jumpTarget s.pc index))

/-- JAL: the link is written before the delay slot runs (R118). -/
def execJal (index : BitVec 26) (s : State) : Result :=
  outsideSlot s (jumpTo (s.setReg 31 s.linkValue) (jumpTarget s.pc index))

/-- JR: all 64 bits of `x[rs]`; a misaligned target faults at its fetch (R119). -/
def execJr (rs : RegIdx) (s : State) : Result :=
  outsideSlot s (jumpTo s (s.reg rs))

/-- JALR: `x[rs]` is read before `x[rd]` is written; refused for `rs = rd` (R120, D18), both 0 included (log entry 18). -/
def execJalr (rd rs : RegIdx) (s : State) : Result :=
  outsideSlot s (if rs = rd then .refused .jalrSameRegister else jumpTo (s.setReg rd s.linkValue) (s.reg rs))

/-! ### Branches of the primary map -/

/-- BEQ: branch if `x[rs] = x[rt]` (R121). -/
def execBeq (rs rt : RegIdx) (offset : BitVec 16) (s : State) : Result :=
  outsideSlot s (branchIf s (equal (s.reg rs) (s.reg rt)) (branchTarget s.pc offset))

/-- BNE: branch if `x[rs] != x[rt]` (R122). -/
def execBne (rs rt : RegIdx) (offset : BitVec 16) (s : State) : Result :=
  outsideSlot s (branchIf s (!equal (s.reg rs) (s.reg rt)) (branchTarget s.pc offset))

/-- BLEZ: branch if `signed(x[rs]) <= 0` (R123). -/
def execBlez (rs : RegIdx) (offset : BitVec 16) (s : State) : Result :=
  outsideSlot s (branchIf s (leZero (s.reg rs)) (branchTarget s.pc offset))

/-- BGTZ: branch if `signed(x[rs]) > 0` (R124). -/
def execBgtz (rs : RegIdx) (offset : BitVec 16) (s : State) : Result :=
  outsideSlot s (branchIf s (!leZero (s.reg rs)) (branchTarget s.pc offset))

/-- BEQL: branch likely if `x[rs] = x[rt]` (R125). -/
def execBeql (rs rt : RegIdx) (offset : BitVec 16) (s : State) : Result :=
  outsideSlot s (branchLikelyIf s (equal (s.reg rs) (s.reg rt)) (branchTarget s.pc offset))

/-- BNEL: branch likely if `x[rs] != x[rt]` (R126). -/
def execBnel (rs rt : RegIdx) (offset : BitVec 16) (s : State) : Result :=
  outsideSlot s (branchLikelyIf s (!equal (s.reg rs) (s.reg rt)) (branchTarget s.pc offset))

/-- BLEZL: branch likely if `signed(x[rs]) <= 0` (R127). -/
def execBlezl (rs : RegIdx) (offset : BitVec 16) (s : State) : Result :=
  outsideSlot s (branchLikelyIf s (leZero (s.reg rs)) (branchTarget s.pc offset))

/-- BGTZL: branch likely if `signed(x[rs]) > 0` (R128). -/
def execBgtzl (rs : RegIdx) (offset : BitVec 16) (s : State) : Result :=
  outsideSlot s (branchLikelyIf s (!leZero (s.reg rs)) (branchTarget s.pc offset))

/-! ### Branches of the REGIMM map -/

/-- BLTZ: branch if `signed(x[rs]) < 0` (R133). -/
def execBltz (rs : RegIdx) (offset : BitVec 16) (s : State) : Result :=
  outsideSlot s (branchIf s (ltZero (s.reg rs)) (branchTarget s.pc offset))

/-- BGEZ: branch if `signed(x[rs]) >= 0` (R134). -/
def execBgez (rs : RegIdx) (offset : BitVec 16) (s : State) : Result :=
  outsideSlot s (branchIf s (!ltZero (s.reg rs)) (branchTarget s.pc offset))

/-- BLTZL: branch likely if `signed(x[rs]) < 0` (R135). -/
def execBltzl (rs : RegIdx) (offset : BitVec 16) (s : State) : Result :=
  outsideSlot s (branchLikelyIf s (ltZero (s.reg rs)) (branchTarget s.pc offset))

/-- BGEZL: branch likely if `signed(x[rs]) >= 0` (R136). -/
def execBgezl (rs : RegIdx) (offset : BitVec 16) (s : State) : Result :=
  outsideSlot s (branchLikelyIf s (!ltZero (s.reg rs)) (branchTarget s.pc offset))

/-- BLTZAL: link, and branch if `signed(x[rs]) < 0` (R129). -/
def execBltzal (rs : RegIdx) (offset : BitVec 16) (s : State) : Result :=
  linkingBranch s rs fun t => branchIf t (ltZero (s.reg rs)) (branchTarget s.pc offset)

/-- BGEZAL: link, and branch if `signed(x[rs]) >= 0` (R130). -/
def execBgezal (rs : RegIdx) (offset : BitVec 16) (s : State) : Result :=
  linkingBranch s rs fun t => branchIf t (!ltZero (s.reg rs)) (branchTarget s.pc offset)

/-- BLTZALL: link, and branch likely if `signed(x[rs]) < 0` (R131). -/
def execBltzall (rs : RegIdx) (offset : BitVec 16) (s : State) : Result :=
  linkingBranch s rs fun t => branchLikelyIf t (ltZero (s.reg rs)) (branchTarget s.pc offset)

/-- BGEZALL: link, and branch likely if `signed(x[rs]) >= 0` (R132). -/
def execBgezall (rs : RegIdx) (offset : BitVec 16) (s : State) : Result :=
  linkingBranch s rs fun t => branchLikelyIf t (!ltZero (s.reg rs)) (branchTarget s.pc offset)

end Sys2Proof.Machine
end

