-- ==== Sys2Proof/Machine/LoadStore.lean ====
section
/-! DEFINITION. Load and store instructions (42_load_store.md). -/

namespace Sys2Proof.Machine

/-! ### Aligned loads -/

/-- LB (R165). -/
def execLb (rt : RegIdx) (offset : BitVec 16) (base : RegIdx) (s : State) : Result :=
  let ea := effectiveAddr s offset base
  loadLane s rt ea (Lane.whole ea 1) sext8Of

/-- LBU (R166). -/
def execLbu (rt : RegIdx) (offset : BitVec 16) (base : RegIdx) (s : State) : Result :=
  let ea := effectiveAddr s offset base
  loadLane s rt ea (Lane.whole ea 1) asRead

/-- LH (R167). -/
def execLh (rt : RegIdx) (offset : BitVec 16) (base : RegIdx) (s : State) : Result :=
  loadAligned s 2 rt (effectiveAddr s offset base) sext16Of

/-- LHU (R168). -/
def execLhu (rt : RegIdx) (offset : BitVec 16) (base : RegIdx) (s : State) : Result :=
  loadAligned s 2 rt (effectiveAddr s offset base) asRead

/-- LW (R169). -/
def execLw (rt : RegIdx) (offset : BitVec 16) (base : RegIdx) (s : State) : Result :=
  loadAligned s 4 rt (effectiveAddr s offset base) sext32Of

/-- LWU (R170, R163). -/
def execLwu (rt : RegIdx) (offset : BitVec 16) (base : RegIdx) (s : State) : Result :=
  atLevel .III s (loadAligned s 4 rt (effectiveAddr s offset base) asRead)

/-- LD (R171, R163). -/
def execLd (rt : RegIdx) (offset : BitVec 16) (base : RegIdx) (s : State) : Result :=
  atLevel .III s (loadAligned s 8 rt (effectiveAddr s offset base) asRead)

/-! ### Unaligned loads: the part of the item that lies in one aligned word or doubleword, merged into the register -/

/-- LWL (R172). -/
def execLwl (rt : RegIdx) (offset : BitVec 16) (base : RegIdx) (s : State) : Result :=
  let ea := effectiveAddr s offset base
  let be := s.config.bigEndian
  loadLane s rt ea (leftLane be ea 4) (mergeLeft32 (sigOf be ea 4) (s.reg rt))

/-- LWR (R173). -/
def execLwr (rt : RegIdx) (offset : BitVec 16) (base : RegIdx) (s : State) : Result :=
  let ea := effectiveAddr s offset base
  let be := s.config.bigEndian
  loadLane s rt ea (rightLane be ea 4) (mergeRight32 s.config.lwrUpperPolicy (sigOf be ea 4) (s.reg rt))

/-- LDL (R174, R163). -/
def execLdl (rt : RegIdx) (offset : BitVec 16) (base : RegIdx) (s : State) : Result :=
  let ea := effectiveAddr s offset base
  let be := s.config.bigEndian
  atLevel .III s (loadLane s rt ea (leftLane be ea 8) (mergeLeft64 (sigOf be ea 8) (s.reg rt)))

/-- LDR (R175, R163). -/
def execLdr (rt : RegIdx) (offset : BitVec 16) (base : RegIdx) (s : State) : Result :=
  let ea := effectiveAddr s offset base
  let be := s.config.bigEndian
  atLevel .III s (loadLane s rt ea (rightLane be ea 8) (mergeRight64 (sigOf be ea 8) (s.reg rt)))

/-! ### Aligned stores -/

/-- SB (R180, R162). -/
def execSb (rt : RegIdx) (offset : BitVec 16) (base : RegIdx) (s : State) : Result :=
  let ea := effectiveAddr s offset base
  storeLane s ea (Lane.whole ea 1) (s.reg rt)

/-- SH (R181, R162). -/
def execSh (rt : RegIdx) (offset : BitVec 16) (base : RegIdx) (s : State) : Result :=
  storeAligned s 2 (effectiveAddr s offset base) (s.reg rt)

/-- SW (R182, R162). -/
def execSw (rt : RegIdx) (offset : BitVec 16) (base : RegIdx) (s : State) : Result :=
  storeAligned s 4 (effectiveAddr s offset base) (s.reg rt)

/-- SD (R183, R163). -/
def execSd (rt : RegIdx) (offset : BitVec 16) (base : RegIdx) (s : State) : Result :=
  atLevel .III s (storeAligned s 8 (effectiveAddr s offset base) (s.reg rt))

/-! ### Unaligned stores -/

/-- SWL (R176). -/
def execSwl (rt : RegIdx) (offset : BitVec 16) (base : RegIdx) (s : State) : Result :=
  let ea := effectiveAddr s offset base
  let be := s.config.bigEndian
  storeLane s ea (leftLane be ea 4) (storedLeft32 (sigOf be ea 4) (s.reg rt))

/-- SWR (R177). -/
def execSwr (rt : RegIdx) (offset : BitVec 16) (base : RegIdx) (s : State) : Result :=
  let ea := effectiveAddr s offset base
  let be := s.config.bigEndian
  storeLane s ea (rightLane be ea 4) (s.reg rt)

/-- SDL (R178, R163). -/
def execSdl (rt : RegIdx) (offset : BitVec 16) (base : RegIdx) (s : State) : Result :=
  let ea := effectiveAddr s offset base
  let be := s.config.bigEndian
  atLevel .III s (storeLane s ea (leftLane be ea 8) (storedLeft64 (sigOf be ea 8) (s.reg rt)))

/-- SDR (R179, R163). -/
def execSdr (rt : RegIdx) (offset : BitVec 16) (base : RegIdx) (s : State) : Result :=
  let ea := effectiveAddr s offset base
  let be := s.config.bigEndian
  atLevel .III s (storeLane s ea (rightLane be ea 8) (s.reg rt))

end Sys2Proof.Machine
end

