-- ==== Sys2Proof/Machine/MulDiv.lean ====
section
/-! DEFINITION. Multiply, divide, and the HI and LO registers (46_muldiv.md). -/

namespace Sys2Proof.Machine

/-- HI and LO of a 32-bit product, quotient or remainder: each half sign-extended (R241). -/
def hiLo32 (hi lo : Word) : DWord × DWord := (sext32 hi, sext32 lo)

/-- A 64-bit product's halves (R249, R250). -/
def product32 (prod64 : DWord) : DWord × DWord := hiLo32 (prod64.extractLsb' 32 32) (prod64.extractLsb' 0 32)

/-- A 128-bit product's halves (R253, R254). -/
def product64 (prod128 : BitVec 128) : DWord × DWord := (prod128.extractLsb' 64 64, prod128.extractLsb' 0 64)

/-- MULT's HI and LO (R249). -/
def mult32 (a b : Word) : Option (DWord × DWord) := some (product32 (BitVec.ofInt 64 (a.toInt * b.toInt)))

/-- MULTU's HI and LO (R250). -/
def multu32 (a b : Word) : Option (DWord × DWord) := some (product32 (BitVec.ofNat 64 (a.toNat * b.toNat)))

/-- DIV's HI (the remainder) and LO (the quotient, truncated toward zero); none for a zero divisor and for the most negative
word divided by -1 (R251, R242, D10). -/
def div32 (a b : Word) : Option (DWord × DWord) :=
  if b = 0 ∨ (a = 0x80000000 ∧ b = 0xFFFFFFFF) then none
  else some (hiLo32 (BitVec.ofInt 32 (a.toInt.tmod b.toInt)) (BitVec.ofInt 32 (a.toInt.tdiv b.toInt)))

/-- DIVU's HI and LO; none for a zero divisor (R252, D10). -/
def divu32 (a b : Word) : Option (DWord × DWord) :=
  if b = 0 then none
  else some (hiLo32 (BitVec.ofNat 32 (a.toNat % b.toNat)) (BitVec.ofNat 32 (a.toNat / b.toNat)))

/-- DMULT's HI and LO (R253). -/
def mult64 (a b : DWord) : Option (DWord × DWord) := some (product64 (BitVec.ofInt 128 (a.toInt * b.toInt)))

/-- DMULTU's HI and LO (R254). -/
def multu64 (a b : DWord) : Option (DWord × DWord) := some (product64 (BitVec.ofNat 128 (a.toNat * b.toNat)))

/-- DDIV's HI and LO (R255, R242, D10). -/
def div64 (a b : DWord) : Option (DWord × DWord) :=
  if b = 0 ∨ (a = 0x8000000000000000 ∧ b = 0xFFFFFFFFFFFFFFFF) then none
  else some (BitVec.ofInt 64 (a.toInt.tmod b.toInt), BitVec.ofInt 64 (a.toInt.tdiv b.toInt))

/-- DDIVU's HI and LO (R256, D10). -/
def divu64 (a b : DWord) : Option (DWord × DWord) :=
  if b = 0 then none
  else some (BitVec.ofNat 64 (a.toNat % b.toNat), BitVec.ofNat 64 (a.toNat / b.toNat))

/-- A multiply or divide: the guard tests (70_reset_and_hazards.md R350 and R357 step 5), then the operands, then HI and LO. -/
def mulDiv (s : State) (rs rt : RegIdx) (f : DWord → DWord → Option (DWord × DWord)) : Result :=
  guardHi s fun t => guardLo t fun u => finishMulDiv u (f (u.reg rs) (u.reg rt))

/-- A word operation as an operation on registers: undefined where an operand is no word value (R241, D11). -/
def onWords (f : Word → Word → Option (DWord × DWord)) (a b : DWord) : Option (DWord × DWord) :=
  if isWordValue a && isWordValue b then f (low32 a) (low32 b) else none

/-- MFHI or MFLO has read the result of the last multiply or divide (R243 (b)). -/
def State.hiLoRead (s : State) : State := { s with hiloUnread := false }

/-- The end of MFHI: HI has been read, and the next two instructions are guarded (R243, 70_reset_and_hazards.md R350). -/
def State.guardHiRead (s : State) (rd : RegIdx) : State :=
  { s with hiGuard := 2, hiReads := { s.hiReads with last := if rd = 0 then none else some rd } }

/-- The end of MFLO. -/
def State.guardLoRead (s : State) (rd : RegIdx) : State :=
  { s with loGuard := 2, loReads := { s.loReads with last := if rd = 0 then none else some rd } }

/-! ### Moves -/

/-- MFHI (R245): the guard is set after the decrement of its own step (70_reset_and_hazards.md R350). -/
def execMfhi (rd : RegIdx) (s : State) : Result :=
  .next (((s.setReg rd s.hi).hiLoRead.retire .next).guardHiRead rd)

/-- MFLO (R247). -/
def execMflo (rd : RegIdx) (s : State) : Result :=
  .next (((s.setReg rd s.lo).hiLoRead.retire .next).guardLoRead rd)

/-- MTHI (R246): over a multiply or divide result nobody has read, LO becomes any value and the bit stays (R243 (b)). -/
def execMthi (rs : RegIdx) (s : State) : Result :=
  guardHi s fun t =>
    let u := if t.hiloUnread then t.drawn.withLo t.anyWord else t
    .next ((u.withHi (t.reg rs)).retire .next)

/-- MTLO (R248): over a multiply or divide result nobody has read, HI becomes any value and the bit stays (R243 (b)). -/
def execMtlo (rs : RegIdx) (s : State) : Result :=
  guardLo s fun t =>
    let u := if t.hiloUnread then t.drawn.withHi t.anyWord else t
    .next ((u.withLo (t.reg rs)).retire .next)

/-! ### Word multiply and divide -/

/-- MULT (R249, R241). -/
def execMult (rs rt : RegIdx) (s : State) : Result :=
  mulDiv s rs rt (onWords mult32)

/-- MULTU (R250, R241). -/
def execMultu (rs rt : RegIdx) (s : State) : Result :=
  mulDiv s rs rt (onWords multu32)

/-- DIV (R251, R241). -/
def execDiv (rs rt : RegIdx) (s : State) : Result :=
  mulDiv s rs rt (onWords div32)

/-- DIVU (R252, R241). -/
def execDivu (rs rt : RegIdx) (s : State) : Result :=
  mulDiv s rs rt (onWords divu32)

/-! ### Doubleword multiply and divide -/

/-- DMULT (R253, R244). -/
def execDmult (rs rt : RegIdx) (s : State) : Result :=
  atLevel .III s (mulDiv s rs rt mult64)

/-- DMULTU (R254, R244). -/
def execDmultu (rs rt : RegIdx) (s : State) : Result :=
  atLevel .III s (mulDiv s rs rt multu64)

/-- DDIV (R255, R244). -/
def execDdiv (rs rt : RegIdx) (s : State) : Result :=
  atLevel .III s (mulDiv s rs rt div64)

/-- DDIVU (R256, R244). -/
def execDdivu (rs rt : RegIdx) (s : State) : Result :=
  atLevel .III s (mulDiv s rs rt divu64)

end Sys2Proof.Machine
end

