-- ==== Sys2Proof/Machine/NonCpu.lean ====
section
/-! DEFINITION. The non-CPU entries of the maps (48_non_cpu.md). -/

namespace Sys2Proof.Machine

/-- An operation of coprocessor `z` (R281): Coprocessor Unusable where `CU[z]` is clear; refused where it is set, the
coprocessor's own behaviour being outside the spec (R297, D5). -/
def coprocessor (s : State) (z : Fin 4) : Result :=
  if s.config.cu[z] then .refused (.coprocessorEnabled z) else s.raise (.coprocessorUnusable z)

/-! ### Coprocessor classes -/

/-- COP0: coprocessor 0 (R282). -/
def execCop0 (_rest : BitVec 26) (s : State) : Result :=
  coprocessor s 0

/-- COP1: coprocessor 1 (R283). -/
def execCop1 (_rest : BitVec 26) (s : State) : Result :=
  coprocessor s 1

/-- COP2: coprocessor 2 (R284). -/
def execCop2 (_rest : BitVec 26) (s : State) : Result :=
  coprocessor s 2

/-- COP1X: coprocessor 1 (R285, D19). -/
def execCop1x (_rest : BitVec 26) (s : State) : Result :=
  atLevel .IV s (coprocessor s 1)

/-- MOVCI: coprocessor 1 (R286, D19). -/
def execMovci (_rest : BitVec 20) (s : State) : Result :=
  atLevel .IV s (coprocessor s 1)

/-! ### Coprocessor loads and stores: the exception is raised before any address is formed -/

/-- LWC1: coprocessor 1 (R287). -/
def execLwc1 (_rt : RegIdx) (_offset : BitVec 16) (_base : RegIdx) (s : State) : Result :=
  coprocessor s 1

/-- LWC2: coprocessor 2 (R288). -/
def execLwc2 (_rt : RegIdx) (_offset : BitVec 16) (_base : RegIdx) (s : State) : Result :=
  coprocessor s 2

/-- SWC1: coprocessor 1 (R289). -/
def execSwc1 (_rt : RegIdx) (_offset : BitVec 16) (_base : RegIdx) (s : State) : Result :=
  coprocessor s 1

/-- SWC2: coprocessor 2 (R290). -/
def execSwc2 (_rt : RegIdx) (_offset : BitVec 16) (_base : RegIdx) (s : State) : Result :=
  coprocessor s 2

/-- LDC1: coprocessor 1 (R291). -/
def execLdc1 (_rt : RegIdx) (_offset : BitVec 16) (_base : RegIdx) (s : State) : Result :=
  coprocessor s 1

/-- LDC2: coprocessor 2 (R292). -/
def execLdc2 (_rt : RegIdx) (_offset : BitVec 16) (_base : RegIdx) (s : State) : Result :=
  coprocessor s 2

/-- SDC1: coprocessor 1 (R294). -/
def execSdc1 (_rt : RegIdx) (_offset : BitVec 16) (_base : RegIdx) (s : State) : Result :=
  coprocessor s 1

/-- SDC2: coprocessor 2 (R295). -/
def execSdc2 (_rt : RegIdx) (_offset : BitVec 16) (_base : RegIdx) (s : State) : Result :=
  coprocessor s 2

/-- The rho opcode: an operation of coprocessor 0 where the implementation uses it so, else reserved (R293, D6). -/
def execRho (_rt : RegIdx) (_offset : BitVec 16) (_base : RegIdx) (s : State) : Result :=
  if s.config.rhoIsCop0 then coprocessor s 0 else s.raise .reservedInstruction

/-! ### Historic coprocessor 3 entries, selected in mode II only, where they are reserved (R296, kappa) -/

/-- COP3 in mode II (R296, 30_encoding.md R86). -/
def execCop3 (_rest : BitVec 26) (s : State) : Result :=
  s.raise .reservedInstruction

/-- LWC3 in mode II (R296, 30_encoding.md R86). -/
def execLwc3 (_rt : RegIdx) (_offset : BitVec 16) (_base : RegIdx) (s : State) : Result :=
  s.raise .reservedInstruction

/-- SWC3 in mode II (R296, 30_encoding.md R86). -/
def execSwc3 (_rt : RegIdx) (_offset : BitVec 16) (_base : RegIdx) (s : State) : Result :=
  s.raise .reservedInstruction

/-- LDC3 in mode II (R296, 30_encoding.md R86). -/
def execLdc3 (_rt : RegIdx) (_offset : BitVec 16) (_base : RegIdx) (s : State) : Result :=
  s.raise .reservedInstruction

/-- SDC3 in mode II (R296, 30_encoding.md R86). -/
def execSdc3 (_rt : RegIdx) (_offset : BitVec 16) (_base : RegIdx) (s : State) : Result :=
  s.raise .reservedInstruction

end Sys2Proof.Machine
end

