-- ==== Sys2Proof/Machine/Reserved.lean ====
section
/-! DEFINITION. The reserved cells (30_encoding.md R90, 60_exceptions.md R301): each raises Reserved Instruction,
whatever the other fields hold, in every mode. -/

namespace Sys2Proof.Machine

/-- The reserved cell RESERVED_OP_011100. -/
def execReservedOp011100 (_rest : BitVec 26) (s : State) : Result :=
  s.raise .reservedInstruction

/-- The reserved cell RESERVED_OP_011101. -/
def execReservedOp011101 (_rest : BitVec 26) (s : State) : Result :=
  s.raise .reservedInstruction

/-- The reserved cell RESERVED_OP_011110. -/
def execReservedOp011110 (_rest : BitVec 26) (s : State) : Result :=
  s.raise .reservedInstruction

/-- The reserved cell RESERVED_OP_011111. -/
def execReservedOp011111 (_rest : BitVec 26) (s : State) : Result :=
  s.raise .reservedInstruction

/-- The reserved cell RESERVED_OP_111011. -/
def execReservedOp111011 (_rest : BitVec 26) (s : State) : Result :=
  s.raise .reservedInstruction

/-- The reserved cell RESERVED_SPECIAL_000101. -/
def execReservedSpecial000101 (_rest : BitVec 20) (s : State) : Result :=
  s.raise .reservedInstruction

/-- The reserved cell RESERVED_SPECIAL_001110. -/
def execReservedSpecial001110 (_rest : BitVec 20) (s : State) : Result :=
  s.raise .reservedInstruction

/-- The reserved cell RESERVED_SPECIAL_010101. -/
def execReservedSpecial010101 (_rest : BitVec 20) (s : State) : Result :=
  s.raise .reservedInstruction

/-- The reserved cell RESERVED_SPECIAL_101000. -/
def execReservedSpecial101000 (_rest : BitVec 20) (s : State) : Result :=
  s.raise .reservedInstruction

/-- The reserved cell RESERVED_SPECIAL_101001. -/
def execReservedSpecial101001 (_rest : BitVec 20) (s : State) : Result :=
  s.raise .reservedInstruction

/-- The reserved cell RESERVED_SPECIAL_110101. -/
def execReservedSpecial110101 (_rest : BitVec 20) (s : State) : Result :=
  s.raise .reservedInstruction

/-- The reserved cell RESERVED_SPECIAL_110111. -/
def execReservedSpecial110111 (_rest : BitVec 20) (s : State) : Result :=
  s.raise .reservedInstruction

/-- The reserved cell RESERVED_SPECIAL_111001. -/
def execReservedSpecial111001 (_rest : BitVec 20) (s : State) : Result :=
  s.raise .reservedInstruction

/-- The reserved cell RESERVED_SPECIAL_111101. -/
def execReservedSpecial111101 (_rest : BitVec 20) (s : State) : Result :=
  s.raise .reservedInstruction

/-- The reserved cell RESERVED_REGIMM_00100. -/
def execReservedRegimm00100 (_rs : RegIdx) (_imm : BitVec 16) (s : State) : Result :=
  s.raise .reservedInstruction

/-- The reserved cell RESERVED_REGIMM_00101. -/
def execReservedRegimm00101 (_rs : RegIdx) (_imm : BitVec 16) (s : State) : Result :=
  s.raise .reservedInstruction

/-- The reserved cell RESERVED_REGIMM_00110. -/
def execReservedRegimm00110 (_rs : RegIdx) (_imm : BitVec 16) (s : State) : Result :=
  s.raise .reservedInstruction

/-- The reserved cell RESERVED_REGIMM_00111. -/
def execReservedRegimm00111 (_rs : RegIdx) (_imm : BitVec 16) (s : State) : Result :=
  s.raise .reservedInstruction

/-- The reserved cell RESERVED_REGIMM_01101. -/
def execReservedRegimm01101 (_rs : RegIdx) (_imm : BitVec 16) (s : State) : Result :=
  s.raise .reservedInstruction

/-- The reserved cell RESERVED_REGIMM_01111. -/
def execReservedRegimm01111 (_rs : RegIdx) (_imm : BitVec 16) (s : State) : Result :=
  s.raise .reservedInstruction

/-- The reserved cell RESERVED_REGIMM_10100. -/
def execReservedRegimm10100 (_rs : RegIdx) (_imm : BitVec 16) (s : State) : Result :=
  s.raise .reservedInstruction

/-- The reserved cell RESERVED_REGIMM_10101. -/
def execReservedRegimm10101 (_rs : RegIdx) (_imm : BitVec 16) (s : State) : Result :=
  s.raise .reservedInstruction

/-- The reserved cell RESERVED_REGIMM_10110. -/
def execReservedRegimm10110 (_rs : RegIdx) (_imm : BitVec 16) (s : State) : Result :=
  s.raise .reservedInstruction

/-- The reserved cell RESERVED_REGIMM_10111. -/
def execReservedRegimm10111 (_rs : RegIdx) (_imm : BitVec 16) (s : State) : Result :=
  s.raise .reservedInstruction

/-- The reserved cell RESERVED_REGIMM_11000. -/
def execReservedRegimm11000 (_rs : RegIdx) (_imm : BitVec 16) (s : State) : Result :=
  s.raise .reservedInstruction

/-- The reserved cell RESERVED_REGIMM_11001. -/
def execReservedRegimm11001 (_rs : RegIdx) (_imm : BitVec 16) (s : State) : Result :=
  s.raise .reservedInstruction

/-- The reserved cell RESERVED_REGIMM_11010. -/
def execReservedRegimm11010 (_rs : RegIdx) (_imm : BitVec 16) (s : State) : Result :=
  s.raise .reservedInstruction

/-- The reserved cell RESERVED_REGIMM_11011. -/
def execReservedRegimm11011 (_rs : RegIdx) (_imm : BitVec 16) (s : State) : Result :=
  s.raise .reservedInstruction

/-- The reserved cell RESERVED_REGIMM_11100. -/
def execReservedRegimm11100 (_rs : RegIdx) (_imm : BitVec 16) (s : State) : Result :=
  s.raise .reservedInstruction

/-- The reserved cell RESERVED_REGIMM_11101. -/
def execReservedRegimm11101 (_rs : RegIdx) (_imm : BitVec 16) (s : State) : Result :=
  s.raise .reservedInstruction

/-- The reserved cell RESERVED_REGIMM_11110. -/
def execReservedRegimm11110 (_rs : RegIdx) (_imm : BitVec 16) (s : State) : Result :=
  s.raise .reservedInstruction

/-- The reserved cell RESERVED_REGIMM_11111. -/
def execReservedRegimm11111 (_rs : RegIdx) (_imm : BitVec 16) (s : State) : Result :=
  s.raise .reservedInstruction

end Sys2Proof.Machine
end

