-- ==== Sys2Proof/Machine/Shift.lean ====
section
/-! DEFINITION. Shift instructions (44_shift.md). -/

namespace Sys2Proof.Machine

/-! ### Word shifts (R201): a left shift has no precondition -/

/-- SLL (R203). -/
def execSll (rd rt : RegIdx) (sa : BitVec 5) (s : State) : Result :=
  writeResult s rd (sext32 (low32 (s.reg rt) <<< sa.toNat))

/-- SRL (R204). -/
def execSrl (rd rt : RegIdx) (sa : BitVec 5) (s : State) : Result :=
  wordResult s (isWordValue (s.reg rt)) rd (low32 (s.reg rt) >>> sa.toNat)

/-- SRA (R205). -/
def execSra (rd rt : RegIdx) (sa : BitVec 5) (s : State) : Result :=
  wordResult s (isWordValue (s.reg rt)) rd ((low32 (s.reg rt)).sshiftRight sa.toNat)

/-- SLLV (R206). -/
def execSllv (rd rt rs : RegIdx) (s : State) : Result :=
  writeResult s rd (sext32 (low32 (s.reg rt) <<< (amount5 (s.reg rs))))

/-- SRLV (R207). -/
def execSrlv (rd rt rs : RegIdx) (s : State) : Result :=
  wordResult s (isWordValue (s.reg rt)) rd (low32 (s.reg rt) >>> (amount5 (s.reg rs)))

/-- SRAV (R208). -/
def execSrav (rd rt rs : RegIdx) (s : State) : Result :=
  wordResult s (isWordValue (s.reg rt)) rd ((low32 (s.reg rt)).sshiftRight (amount5 (s.reg rs)))

/-! ### Doubleword shifts (R202) -/

/-- DSLL (R209, R202). -/
def execDsll (rd rt : RegIdx) (sa : BitVec 5) (s : State) : Result :=
  atLevel .III s (writeResult s rd (s.reg rt <<< sa.toNat))

/-- DSRL (R210, R202). -/
def execDsrl (rd rt : RegIdx) (sa : BitVec 5) (s : State) : Result :=
  atLevel .III s (writeResult s rd (s.reg rt >>> sa.toNat))

/-- DSRA (R211, R202). -/
def execDsra (rd rt : RegIdx) (sa : BitVec 5) (s : State) : Result :=
  atLevel .III s (writeResult s rd ((s.reg rt).sshiftRight sa.toNat))

/-- DSLL32 (R212, R202). -/
def execDsll32 (rd rt : RegIdx) (sa : BitVec 5) (s : State) : Result :=
  atLevel .III s (writeResult s rd (s.reg rt <<< (sa.toNat + 32)))

/-- DSRL32 (R213, R202). -/
def execDsrl32 (rd rt : RegIdx) (sa : BitVec 5) (s : State) : Result :=
  atLevel .III s (writeResult s rd (s.reg rt >>> (sa.toNat + 32)))

/-- DSRA32 (R214, R202). -/
def execDsra32 (rd rt : RegIdx) (sa : BitVec 5) (s : State) : Result :=
  atLevel .III s (writeResult s rd ((s.reg rt).sshiftRight (sa.toNat + 32)))

/-- DSLLV (R215, R202). -/
def execDsllv (rd rt rs : RegIdx) (s : State) : Result :=
  atLevel .III s (writeResult s rd (s.reg rt <<< (amount6 (s.reg rs))))

/-- DSRLV (R216, R202). -/
def execDsrlv (rd rt rs : RegIdx) (s : State) : Result :=
  atLevel .III s (writeResult s rd (s.reg rt >>> (amount6 (s.reg rs))))

/-- DSRAV (R217, R202). -/
def execDsrav (rd rt rs : RegIdx) (s : State) : Result :=
  atLevel .III s (writeResult s rd ((s.reg rt).sshiftRight (amount6 (s.reg rs))))

end Sys2Proof.Machine
end

