-- ==== Sys2Proof/Machine/TrapSystem.lean ====
section
/-! DEFINITION. Conditional trap, system call and breakpoint instructions (47_trap_system.md). -/

namespace Sys2Proof.Machine

/-! ### Register traps (SPECIAL) -/

/-- TGE (R264). -/
def execTge (rs rt : RegIdx) (code : BitVec 10) (s : State) : Result :=
  trapIf s (!ltSigned (s.reg rs) (s.reg rt)) code

/-- TGEU (R265). -/
def execTgeu (rs rt : RegIdx) (code : BitVec 10) (s : State) : Result :=
  trapIf s (!ltUnsigned (s.reg rs) (s.reg rt)) code

/-- TLT (R266). -/
def execTlt (rs rt : RegIdx) (code : BitVec 10) (s : State) : Result :=
  trapIf s (ltSigned (s.reg rs) (s.reg rt)) code

/-- TLTU (R267). -/
def execTltu (rs rt : RegIdx) (code : BitVec 10) (s : State) : Result :=
  trapIf s (ltUnsigned (s.reg rs) (s.reg rt)) code

/-- TEQ (R268). -/
def execTeq (rs rt : RegIdx) (code : BitVec 10) (s : State) : Result :=
  trapIf s (equal (s.reg rs) (s.reg rt)) code

/-- TNE (R269). -/
def execTne (rs rt : RegIdx) (code : BitVec 10) (s : State) : Result :=
  trapIf s (!equal (s.reg rs) (s.reg rt)) code

/-! ### Immediate traps (REGIMM): no `code` field, recorded as 0 (60_exceptions.md R306) -/

/-- TGEI (R270, R262). -/
def execTgei (rs : RegIdx) (imm : BitVec 16) (s : State) : Result :=
  trapIf s (!ltSigned (s.reg rs) (signImm imm)) 0

/-- TGEIU (R271, R262). -/
def execTgeiu (rs : RegIdx) (imm : BitVec 16) (s : State) : Result :=
  trapIf s (!ltUnsigned (s.reg rs) (signImm imm)) 0

/-- TLTI (R272, R262). -/
def execTlti (rs : RegIdx) (imm : BitVec 16) (s : State) : Result :=
  trapIf s (ltSigned (s.reg rs) (signImm imm)) 0

/-- TLTIU (R273, R262). -/
def execTltiu (rs : RegIdx) (imm : BitVec 16) (s : State) : Result :=
  trapIf s (ltUnsigned (s.reg rs) (signImm imm)) 0

/-- TEQI (R274, R262). -/
def execTeqi (rs : RegIdx) (imm : BitVec 16) (s : State) : Result :=
  trapIf s (equal (s.reg rs) (signImm imm)) 0

/-- TNEI (R275, R262). -/
def execTnei (rs : RegIdx) (imm : BitVec 16) (s : State) : Result :=
  trapIf s (!equal (s.reg rs) (signImm imm)) 0

/-! ### System call and breakpoint -/

/-- SYSCALL: raises SystemCall unconditionally (R276). -/
def execSyscall (code : BitVec 20) (s : State) : Result :=
  s.raise (.systemCall code)

/-- BREAK: raises Breakpoint unconditionally (R277). -/
def execBreak (code : BitVec 20) (s : State) : Result :=
  s.raise (.breakpoint code)

end Sys2Proof.Machine
end

