-- ==== Sys2Proof/Machine/Dispatch.lean ====
section
/-! DEFINITION. Execution: one arm for each constructor of `Instr`, one call of its meaning. -/

namespace Sys2Proof.Machine

def exec (i : Instr) (s : State) : Host.Outcome State Fault Refusal :=
  match i with
  | .j index => Sys2Proof.Machine.execJ index s
  | .jal index => Sys2Proof.Machine.execJal index s
  | .beq rs rt offset => Sys2Proof.Machine.execBeq rs rt offset s
  | .bne rs rt offset => Sys2Proof.Machine.execBne rs rt offset s
  | .blez rs offset => Sys2Proof.Machine.execBlez rs offset s
  | .bgtz rs offset => Sys2Proof.Machine.execBgtz rs offset s
  | .beql rs rt offset => Sys2Proof.Machine.execBeql rs rt offset s
  | .bnel rs rt offset => Sys2Proof.Machine.execBnel rs rt offset s
  | .blezl rs offset => Sys2Proof.Machine.execBlezl rs offset s
  | .bgtzl rs offset => Sys2Proof.Machine.execBgtzl rs offset s
  | .jr rs => Sys2Proof.Machine.execJr rs s
  | .jalr rd rs => Sys2Proof.Machine.execJalr rd rs s
  | .bltz rs offset => Sys2Proof.Machine.execBltz rs offset s
  | .bgez rs offset => Sys2Proof.Machine.execBgez rs offset s
  | .bltzl rs offset => Sys2Proof.Machine.execBltzl rs offset s
  | .bgezl rs offset => Sys2Proof.Machine.execBgezl rs offset s
  | .bltzal rs offset => Sys2Proof.Machine.execBltzal rs offset s
  | .bgezal rs offset => Sys2Proof.Machine.execBgezal rs offset s
  | .bltzall rs offset => Sys2Proof.Machine.execBltzall rs offset s
  | .bgezall rs offset => Sys2Proof.Machine.execBgezall rs offset s
  | .addi rt rs imm => Sys2Proof.Machine.execAddi rt rs imm s
  | .addiu rt rs imm => Sys2Proof.Machine.execAddiu rt rs imm s
  | .slti rt rs imm => Sys2Proof.Machine.execSlti rt rs imm s
  | .sltiu rt rs imm => Sys2Proof.Machine.execSltiu rt rs imm s
  | .andi rt rs imm => Sys2Proof.Machine.execAndi rt rs imm s
  | .ori rt rs imm => Sys2Proof.Machine.execOri rt rs imm s
  | .xori rt rs imm => Sys2Proof.Machine.execXori rt rs imm s
  | .lui rt imm => Sys2Proof.Machine.execLui rt imm s
  | .daddi rt rs imm => Sys2Proof.Machine.execDaddi rt rs imm s
  | .daddiu rt rs imm => Sys2Proof.Machine.execDaddiu rt rs imm s
  | .ldl rt offset base => Sys2Proof.Machine.execLdl rt offset base s
  | .ldr rt offset base => Sys2Proof.Machine.execLdr rt offset base s
  | .lb rt offset base => Sys2Proof.Machine.execLb rt offset base s
  | .lh rt offset base => Sys2Proof.Machine.execLh rt offset base s
  | .lwl rt offset base => Sys2Proof.Machine.execLwl rt offset base s
  | .lw rt offset base => Sys2Proof.Machine.execLw rt offset base s
  | .lbu rt offset base => Sys2Proof.Machine.execLbu rt offset base s
  | .lhu rt offset base => Sys2Proof.Machine.execLhu rt offset base s
  | .lwr rt offset base => Sys2Proof.Machine.execLwr rt offset base s
  | .lwu rt offset base => Sys2Proof.Machine.execLwu rt offset base s
  | .sb rt offset base => Sys2Proof.Machine.execSb rt offset base s
  | .sh rt offset base => Sys2Proof.Machine.execSh rt offset base s
  | .swl rt offset base => Sys2Proof.Machine.execSwl rt offset base s
  | .sw rt offset base => Sys2Proof.Machine.execSw rt offset base s
  | .sdl rt offset base => Sys2Proof.Machine.execSdl rt offset base s
  | .sdr rt offset base => Sys2Proof.Machine.execSdr rt offset base s
  | .swr rt offset base => Sys2Proof.Machine.execSwr rt offset base s
  | .ld rt offset base => Sys2Proof.Machine.execLd rt offset base s
  | .sd rt offset base => Sys2Proof.Machine.execSd rt offset base s
  | .ll rt offset base => Sys2Proof.Machine.execLl rt offset base s
  | .pref hint offset base => Sys2Proof.Machine.execPref hint offset base s
  | .lld rt offset base => Sys2Proof.Machine.execLld rt offset base s
  | .sc rt offset base => Sys2Proof.Machine.execSc rt offset base s
  | .scd rt offset base => Sys2Proof.Machine.execScd rt offset base s
  | .sync => Sys2Proof.Machine.execSync s
  | .sll rd rt sa => Sys2Proof.Machine.execSll rd rt sa s
  | .srl rd rt sa => Sys2Proof.Machine.execSrl rd rt sa s
  | .sra rd rt sa => Sys2Proof.Machine.execSra rd rt sa s
  | .sllv rd rt rs => Sys2Proof.Machine.execSllv rd rt rs s
  | .srlv rd rt rs => Sys2Proof.Machine.execSrlv rd rt rs s
  | .srav rd rt rs => Sys2Proof.Machine.execSrav rd rt rs s
  | .dsllv rd rt rs => Sys2Proof.Machine.execDsllv rd rt rs s
  | .dsrlv rd rt rs => Sys2Proof.Machine.execDsrlv rd rt rs s
  | .dsrav rd rt rs => Sys2Proof.Machine.execDsrav rd rt rs s
  | .dsll rd rt sa => Sys2Proof.Machine.execDsll rd rt sa s
  | .dsrl rd rt sa => Sys2Proof.Machine.execDsrl rd rt sa s
  | .dsra rd rt sa => Sys2Proof.Machine.execDsra rd rt sa s
  | .dsll32 rd rt sa => Sys2Proof.Machine.execDsll32 rd rt sa s
  | .dsrl32 rd rt sa => Sys2Proof.Machine.execDsrl32 rd rt sa s
  | .dsra32 rd rt sa => Sys2Proof.Machine.execDsra32 rd rt sa s
  | .movz rd rs rt => Sys2Proof.Machine.execMovz rd rs rt s
  | .movn rd rs rt => Sys2Proof.Machine.execMovn rd rs rt s
  | .add rd rs rt => Sys2Proof.Machine.execAdd rd rs rt s
  | .addu rd rs rt => Sys2Proof.Machine.execAddu rd rs rt s
  | .sub rd rs rt => Sys2Proof.Machine.execSub rd rs rt s
  | .subu rd rs rt => Sys2Proof.Machine.execSubu rd rs rt s
  | .and_ rd rs rt => Sys2Proof.Machine.execAnd rd rs rt s
  | .or_ rd rs rt => Sys2Proof.Machine.execOr rd rs rt s
  | .xor_ rd rs rt => Sys2Proof.Machine.execXor rd rs rt s
  | .nor rd rs rt => Sys2Proof.Machine.execNor rd rs rt s
  | .slt rd rs rt => Sys2Proof.Machine.execSlt rd rs rt s
  | .sltu rd rs rt => Sys2Proof.Machine.execSltu rd rs rt s
  | .dadd rd rs rt => Sys2Proof.Machine.execDadd rd rs rt s
  | .daddu rd rs rt => Sys2Proof.Machine.execDaddu rd rs rt s
  | .dsub rd rs rt => Sys2Proof.Machine.execDsub rd rs rt s
  | .dsubu rd rs rt => Sys2Proof.Machine.execDsubu rd rs rt s
  | .mfhi rd => Sys2Proof.Machine.execMfhi rd s
  | .mthi rs => Sys2Proof.Machine.execMthi rs s
  | .mflo rd => Sys2Proof.Machine.execMflo rd s
  | .mtlo rs => Sys2Proof.Machine.execMtlo rs s
  | .mult rs rt => Sys2Proof.Machine.execMult rs rt s
  | .multu rs rt => Sys2Proof.Machine.execMultu rs rt s
  | .div rs rt => Sys2Proof.Machine.execDiv rs rt s
  | .divu rs rt => Sys2Proof.Machine.execDivu rs rt s
  | .dmult rs rt => Sys2Proof.Machine.execDmult rs rt s
  | .dmultu rs rt => Sys2Proof.Machine.execDmultu rs rt s
  | .ddiv rs rt => Sys2Proof.Machine.execDdiv rs rt s
  | .ddivu rs rt => Sys2Proof.Machine.execDdivu rs rt s
  | .syscall code => Sys2Proof.Machine.execSyscall code s
  | .break_ code => Sys2Proof.Machine.execBreak code s
  | .tge rs rt code => Sys2Proof.Machine.execTge rs rt code s
  | .tgeu rs rt code => Sys2Proof.Machine.execTgeu rs rt code s
  | .tlt rs rt code => Sys2Proof.Machine.execTlt rs rt code s
  | .tltu rs rt code => Sys2Proof.Machine.execTltu rs rt code s
  | .teq rs rt code => Sys2Proof.Machine.execTeq rs rt code s
  | .tne rs rt code => Sys2Proof.Machine.execTne rs rt code s
  | .tgei rs imm => Sys2Proof.Machine.execTgei rs imm s
  | .tgeiu rs imm => Sys2Proof.Machine.execTgeiu rs imm s
  | .tlti rs imm => Sys2Proof.Machine.execTlti rs imm s
  | .tltiu rs imm => Sys2Proof.Machine.execTltiu rs imm s
  | .teqi rs imm => Sys2Proof.Machine.execTeqi rs imm s
  | .tnei rs imm => Sys2Proof.Machine.execTnei rs imm s
  | .cop0 rest => Sys2Proof.Machine.execCop0 rest s
  | .cop1 rest => Sys2Proof.Machine.execCop1 rest s
  | .cop2 rest => Sys2Proof.Machine.execCop2 rest s
  | .cop1x rest => Sys2Proof.Machine.execCop1x rest s
  | .rho rt offset base => Sys2Proof.Machine.execRho rt offset base s
  | .lwc1 rt offset base => Sys2Proof.Machine.execLwc1 rt offset base s
  | .lwc2 rt offset base => Sys2Proof.Machine.execLwc2 rt offset base s
  | .ldc1 rt offset base => Sys2Proof.Machine.execLdc1 rt offset base s
  | .ldc2 rt offset base => Sys2Proof.Machine.execLdc2 rt offset base s
  | .swc1 rt offset base => Sys2Proof.Machine.execSwc1 rt offset base s
  | .swc2 rt offset base => Sys2Proof.Machine.execSwc2 rt offset base s
  | .sdc1 rt offset base => Sys2Proof.Machine.execSdc1 rt offset base s
  | .sdc2 rt offset base => Sys2Proof.Machine.execSdc2 rt offset base s
  | .movci rest => Sys2Proof.Machine.execMovci rest s
  | .reservedOp011100 rest => Sys2Proof.Machine.execReservedOp011100 rest s
  | .reservedOp011101 rest => Sys2Proof.Machine.execReservedOp011101 rest s
  | .reservedOp011110 rest => Sys2Proof.Machine.execReservedOp011110 rest s
  | .reservedOp011111 rest => Sys2Proof.Machine.execReservedOp011111 rest s
  | .reservedOp111011 rest => Sys2Proof.Machine.execReservedOp111011 rest s
  | .reservedSpecial000101 rest => Sys2Proof.Machine.execReservedSpecial000101 rest s
  | .reservedSpecial001110 rest => Sys2Proof.Machine.execReservedSpecial001110 rest s
  | .reservedSpecial010101 rest => Sys2Proof.Machine.execReservedSpecial010101 rest s
  | .reservedSpecial101000 rest => Sys2Proof.Machine.execReservedSpecial101000 rest s
  | .reservedSpecial101001 rest => Sys2Proof.Machine.execReservedSpecial101001 rest s
  | .reservedSpecial110101 rest => Sys2Proof.Machine.execReservedSpecial110101 rest s
  | .reservedSpecial110111 rest => Sys2Proof.Machine.execReservedSpecial110111 rest s
  | .reservedSpecial111001 rest => Sys2Proof.Machine.execReservedSpecial111001 rest s
  | .reservedSpecial111101 rest => Sys2Proof.Machine.execReservedSpecial111101 rest s
  | .reservedRegimm00100 rs imm => Sys2Proof.Machine.execReservedRegimm00100 rs imm s
  | .reservedRegimm00101 rs imm => Sys2Proof.Machine.execReservedRegimm00101 rs imm s
  | .reservedRegimm00110 rs imm => Sys2Proof.Machine.execReservedRegimm00110 rs imm s
  | .reservedRegimm00111 rs imm => Sys2Proof.Machine.execReservedRegimm00111 rs imm s
  | .reservedRegimm01101 rs imm => Sys2Proof.Machine.execReservedRegimm01101 rs imm s
  | .reservedRegimm01111 rs imm => Sys2Proof.Machine.execReservedRegimm01111 rs imm s
  | .reservedRegimm10100 rs imm => Sys2Proof.Machine.execReservedRegimm10100 rs imm s
  | .reservedRegimm10101 rs imm => Sys2Proof.Machine.execReservedRegimm10101 rs imm s
  | .reservedRegimm10110 rs imm => Sys2Proof.Machine.execReservedRegimm10110 rs imm s
  | .reservedRegimm10111 rs imm => Sys2Proof.Machine.execReservedRegimm10111 rs imm s
  | .reservedRegimm11000 rs imm => Sys2Proof.Machine.execReservedRegimm11000 rs imm s
  | .reservedRegimm11001 rs imm => Sys2Proof.Machine.execReservedRegimm11001 rs imm s
  | .reservedRegimm11010 rs imm => Sys2Proof.Machine.execReservedRegimm11010 rs imm s
  | .reservedRegimm11011 rs imm => Sys2Proof.Machine.execReservedRegimm11011 rs imm s
  | .reservedRegimm11100 rs imm => Sys2Proof.Machine.execReservedRegimm11100 rs imm s
  | .reservedRegimm11101 rs imm => Sys2Proof.Machine.execReservedRegimm11101 rs imm s
  | .reservedRegimm11110 rs imm => Sys2Proof.Machine.execReservedRegimm11110 rs imm s
  | .reservedRegimm11111 rs imm => Sys2Proof.Machine.execReservedRegimm11111 rs imm s
  | .cop3 rest => Sys2Proof.Machine.execCop3 rest s
  | .lwc3 rt offset base => Sys2Proof.Machine.execLwc3 rt offset base s
  | .swc3 rt offset base => Sys2Proof.Machine.execSwc3 rt offset base s
  | .ldc3 rt offset base => Sys2Proof.Machine.execLdc3 rt offset base s
  | .sdc3 rt offset base => Sys2Proof.Machine.execSdc3 rt offset base s

end Sys2Proof.Machine
end

