-- ==== Sys2Proof/Machine/Step.lean ====
section
/-! DEFINITION. One step (70_reset_and_hazards.md R357), and placing a word where the next step fetches. -/

namespace Sys2Proof.Machine

/-- One step: the fetch, and the instruction fetched (R357). -/
def step (s : State) : Host.Outcome State Fault Refusal := fetchAndRun s fun i => exec i s

/-- `s` with the instruction whose low `nbits` bits are those of `w`, and whose other bits are zero, loaded at `pc` by the
environment (log entry 16). Nothing else changes. -/
def State.withFetchWord (s : State) (nbits w : Nat) : State := s.placeWord (BitVec.ofNat 32 (w % 2 ^ nbits))

end Sys2Proof.Machine
end

