-- ==== Sys2Proof/Safety.lean ====
section
/-! DEFINITION. The terms claims are stated in: launch states, the invariant of every run, safe steps, what an instruction
completes with and what it leaves unchanged, what it raises, and a reading of memory by bytes that does not use the
operations the meanings are made of. -/

namespace Sys2Proof.Machine

/-! ### Launch states and the invariant -/

/-- Every byte of the `n` from an address may be accessed: `ValidAddr(a, n, kind)` (20_memory.md R49). -/
def Allowed (c : Config) (kind : AccessKind) (a : Addr) (n : Nat) : Prop :=
  ∀ i, i < n → byteAnswer c.regions kind (a + BitVec.ofNat 64 i) = .allowed

/-- A launch state of a run (70_reset_and_hazards.md R341): every item the table fixes, with `x[1]` to `x[31]`, HI, LO,
`LLbit`, `LLaddr` and the launch memory left free. No LL has been executed, nothing has been stored, nothing has been read
from HI or LO, and no exception has been raised. -/
structure State.IsLaunch (s : State) : Prop where
  pc_entry : s.pc = s.config.entryPC
  entry_aligned : s.config.entryPC.toNat % 4 = 0
  entry_valid : Allowed s.config .fetch s.config.entryPC 4
  npc_entry : s.npc = s.config.entryPC + 4
  no_slot : s.inDelaySlot = false
  hi_guard : s.hiGuard = 0
  lo_guard : s.loGuard = 0
  hilo_read : s.hiloUnread = false
  zero_slot : s.gpr[0] = 0
  mem_wf : Memory.wf s.mem = true
  nothing_stored : s.stored = []
  no_link : s.llWidth = none
  no_hi_reads : s.hiReads = ⟨none, none⟩
  no_lo_reads : s.loReads = ⟨none, none⟩
  running : s.exc = none

/-- The invariant of every run. -/
structure State.Inv (s : State) : Prop where
  /-- Memory is in canonical form. -/
  mem_wf : Memory.wf s.mem = true
  /-- The addresses stored to are strictly rising. -/
  stored_rising : risingAddrs s.stored = true
  /-- A byte the run has stored to holds a value. -/
  stored_listed : ∀ a ∈ s.stored, (Memory.find s.mem a).isSome = true
  /-- The slot of the hard-wired register keeps 0 (10_state.md R21). -/
  zero_slot : s.gpr[0] = 0
  /-- `hiGuard` is 0, 1 or 2 (70_reset_and_hazards.md R350). -/
  hi_guard : s.hiGuard.toNat ≤ 2
  /-- `loGuard` is 0, 1 or 2 (R350). -/
  lo_guard : s.loGuard.toNat ≤ 2
  /-- Outside a delay slot `npc` is the next word (10_state.md R24). -/
  straight : s.inDelaySlot = false → s.npc = s.pc + 4
  /-- A delay slot is a word boundary: only the target of JR or JALR can be misaligned (20_memory.md R46). -/
  slot_aligned : s.inDelaySlot = true → s.pc.toNat % 4 = 0
  /-- The address of the last load linked is a multiple of its width (43_atomic_prefetch_sync.md R192, R193). -/
  link_aligned : ∀ w, s.llWidth = some w → s.llAddr.toNat % linkBytes w = 0
  /-- The window of MFHI destinations agrees with the guard (log entry 12). -/
  hi_window : (s.hiGuard = 0 → s.hiReads = ⟨none, none⟩) ∧ (s.hiGuard = 1 → s.hiReads.last = none)
  /-- The window of MFLO destinations agrees with the guard (log entry 12). -/
  lo_window : (s.loGuard = 0 → s.loReads = ⟨none, none⟩) ∧ (s.loGuard = 1 → s.loReads.last = none)
  /-- The record of a stop holds the restart address and branch-delay bit of the state it stopped in (60_exceptions.md R311). -/
  record : ∀ r, s.exc = some r → r.restartPC = (if s.inDelaySlot then s.pc - 4 else s.pc) ∧ r.bd = s.inDelaySlot

/-- A safe step: it answers a next state, in which the machine has not stopped at an exception. -/
def SafeStep (s : State) : Prop := ∃ t, step s = .next t ∧ t.exc = none

/-! ### Modes (00_scope.md R6, 30_encoding.md R89, 60_exceptions.md R301 (e)) -/

/-- The 64-bit operations of MIPS III execute: the mode is III or IV, and they are enabled (R301 (b), (e)). -/
def Has64 (c : Config) : Prop := c.isaMode ≠ .II ∧ c.ops64Enabled = true

/-- The instructions of MIPS IV execute: the mode is IV (R301 (b)). -/
def HasIV (c : Config) : Prop := c.isaMode = .IV

/-! ### Values (00_scope.md R10) -/

/-- A word value: the sign extension of its low 32 bits. -/
def IsWord (v : DWord) : Prop := v = (v.setWidth 32).signExtend 64

/-- A word, sign-extended. -/
def sextWord (w : BitVec 32) : DWord := w.signExtend 64

/-- A signed integer that 32 bits hold. -/
def FitsWord (n : Int) : Prop := -2 ^ 31 ≤ n ∧ n < 2 ^ 31

/-- A signed integer that 64 bits hold. -/
def FitsDoubleword (n : Int) : Prop := -2 ^ 63 ≤ n ∧ n < 2 ^ 63

/-! ### Memory, read byte by byte (20_memory.md R42) -/

/-- The weight of byte `i` (by rising address) of an item of `n` bytes: the first byte is the most significant with
`BigEndianCPU` = 1, the least significant with 0. -/
def byteRank (c : Config) (n i : Nat) : Nat := if c.bigEndian then n - 1 - i else i

/-- `MemRead(a, n)` as a number. -/
def memValue (s : State) (a : Addr) (n : Nat) : Nat :=
  ((List.range n).map fun i => (s.byteAt (a + BitVec.ofNat 64 i)).toNat * 256 ^ byteRank s.config n i).sum

/-- `byte`: the significance, in its aligned item, of the byte an address names (42_load_store.md section 3). -/
def bytePos (c : Config) (a : Addr) (n : Nat) : Nat := byteRank c n (a.toNat % n)

/-- The bytes an L instruction moves, by their place `i` in the aligned item: BE from the addressed byte to the last, LE
from the first to the addressed byte (42_load_store.md R176). -/
def InLeft (c : Config) (a : Addr) (n i : Nat) : Prop :=
  i < n ∧ if c.bigEndian then a.toNat % n ≤ i else i ≤ a.toNat % n

/-- The bytes an R instruction moves: BE from the first to the addressed byte, LE from the addressed byte to the last
(42_load_store.md R177). -/
def InRight (c : Config) (a : Addr) (n i : Nat) : Prop :=
  i < n ∧ if c.bigEndian then i ≤ a.toNat % n else a.toNat % n ≤ i

/-- The bytes an L or R instruction moves may be accessed. -/
def AllowedPart (c : Config) (kind : AccessKind) (a : Addr) (n : Nat) (part : Nat → Prop) : Prop :=
  ∀ i, part i → byteAnswer c.regions kind (itemOf a n + BitVec.ofNat 64 i) = .allowed

/-! ### Classes of instructions -/

/-- The general register an instruction writes when it completes: `rd` or `rt`, or 31 for the link of JAL and of the linking
branches. MOVZ and MOVN write theirs under their condition (45_alu_register.md R237, R238). -/
def destination : Instr → Option RegIdx
  | .sll rd .. | .srl rd .. | .sra rd .. | .sllv rd .. | .srlv rd .. | .srav rd .. | .jalr rd .. | .movz rd ..
   | .movn rd .. | .mfhi rd | .mflo rd | .dsllv rd .. | .dsrlv rd .. | .dsrav rd .. | .add rd .. | .addu rd ..
   | .sub rd .. | .subu rd .. | .and_ rd .. | .or_ rd .. | .xor_ rd .. | .nor rd .. | .slt rd .. | .sltu rd ..
   | .dadd rd .. | .daddu rd .. | .dsub rd .. | .dsubu rd .. | .dsll rd .. | .dsrl rd .. | .dsra rd ..
   | .dsll32 rd .. | .dsrl32 rd .. | .dsra32 rd .. => some rd
  | .addi rt .. | .addiu rt .. | .slti rt .. | .sltiu rt .. | .andi rt .. | .ori rt .. | .xori rt ..
   | .lui rt .. | .daddi rt .. | .daddiu rt .. | .ldl rt .. | .ldr rt .. | .lb rt .. | .lh rt .. | .lwl rt ..
   | .lw rt .. | .lbu rt .. | .lhu rt .. | .lwr rt .. | .lwu rt .. | .ll rt .. | .lld rt .. | .ld rt ..
   | .sc rt .. | .scd rt .. => some rt
  | .jal .. | .bltzal .. | .bgezal .. | .bltzall .. | .bgezall .. => some 31
  | .j .. | .beq .. | .bne .. | .blez .. | .bgtz .. | .cop0 .. | .cop1 .. | .cop2 .. | .cop1x .. | .beql ..
   | .bnel .. | .blezl .. | .bgtzl .. | .sb .. | .sh .. | .swl .. | .sw .. | .sdl .. | .sdr .. | .swr ..
   | .rho .. | .lwc1 .. | .lwc2 .. | .pref .. | .ldc1 .. | .ldc2 .. | .swc1 .. | .swc2 .. | .sdc1 .. | .sdc2 ..
   | .sd .. | .movci .. | .jr .. | .syscall .. | .break_ .. | .sync | .mthi .. | .mtlo .. | .mult .. | .multu ..
   | .div .. | .divu .. | .dmult .. | .dmultu .. | .ddiv .. | .ddivu .. | .tge .. | .tgeu .. | .tlt ..
   | .tltu .. | .teq .. | .tne .. | .bltz .. | .bgez .. | .bltzl .. | .bgezl .. | .tgei .. | .tgeiu ..
   | .tlti .. | .tltiu .. | .teqi .. | .tnei .. | .reservedOp011100 .. | .reservedOp011101 ..
   | .reservedOp011110 .. | .reservedOp011111 .. | .reservedOp111011 .. | .reservedSpecial000101 ..
   | .reservedSpecial001110 .. | .reservedSpecial010101 .. | .reservedSpecial101000 ..
   | .reservedSpecial101001 .. | .reservedSpecial110101 .. | .reservedSpecial110111 ..
   | .reservedSpecial111001 .. | .reservedSpecial111101 .. | .reservedRegimm00100 .. | .reservedRegimm00101 ..
   | .reservedRegimm00110 .. | .reservedRegimm00111 .. | .reservedRegimm01101 .. | .reservedRegimm01111 ..
   | .reservedRegimm10100 .. | .reservedRegimm10101 .. | .reservedRegimm10110 .. | .reservedRegimm10111 ..
   | .reservedRegimm11000 .. | .reservedRegimm11001 .. | .reservedRegimm11010 .. | .reservedRegimm11011 ..
   | .reservedRegimm11100 .. | .reservedRegimm11101 .. | .reservedRegimm11110 .. | .reservedRegimm11111 ..
   | .cop3 .. | .lwc3 .. | .swc3 .. | .ldc3 .. | .sdc3 .. => none

/-- The loads, the stores and PREF, which 43_atomic_prefetch_sync.md R191 (b) names. SC and SCD count among them, and LL and
LLD, which begin a sequence of their own, do not (log entry 10). -/
def isAccess : Instr → Bool
  | .lb .. | .lbu .. | .lh .. | .lhu .. | .lw .. | .lwu .. | .ld .. | .lwl .. | .lwr .. | .ldl .. | .ldr .. | .sb ..
  | .sh .. | .sw .. | .sd .. | .swl .. | .swr .. | .sdl .. | .sdr .. | .sc .. | .scd .. | .pref .. => true
  | _ => false

/-- The instructions that write HI (70_reset_and_hazards.md R350). -/
def writesHi : Instr → Bool
  | .mult .. | .multu .. | .div .. | .divu .. | .dmult .. | .dmultu .. | .ddiv .. | .ddivu .. | .mthi .. => true
  | _ => false

/-- The instructions that write LO (R350). -/
def writesLo : Instr → Bool
  | .mult .. | .multu .. | .div .. | .divu .. | .dmult .. | .dmultu .. | .ddiv .. | .ddivu .. | .mtlo .. => true
  | _ => false

/-- The window holds the register. -/
def ReadWindow.Holds (w : ReadWindow) (r : RegIdx) : Prop := w.last = some r ∨ w.prev = some r

/-- The instruction is a guarded write of HI or LO, and the register is the destination of an MFHI (MFLO) that the guard is
for (R350; log entry 12). -/
def Hazarded (i : Instr) (s : State) (r : RegIdx) : Prop :=
  (writesHi i = true ∧ s.hiGuard ≠ 0 ∧ s.hiReads.Holds r) ∨ (writesLo i = true ∧ s.loGuard ≠ 0 ∧ s.loReads.Holds r)

/-! ### What an instruction leaves unchanged -/

/-- Every general register but those listed reads as before. -/
def SameRegs (s t : State) (except : List RegIdx) : Prop := ∀ r, r ∉ except → t.reg r = s.reg r

/-- HI, LO and `hiloUnread` are unchanged. -/
def SameHiLo (s t : State) : Prop := t.hi = s.hi ∧ t.lo = s.lo ∧ t.hiloUnread = s.hiloUnread

/-- `LLbit`, `LLaddr` and what the model keeps with them of the last load linked are unchanged. -/
def SameLink (s t : State) : Prop :=
  t.llBit = s.llBit ∧ t.llAddr = s.llAddr ∧ t.llWidth = s.llWidth ∧ t.llBlock = s.llBlock

/-- Every byte of memory reads as before, and the run has stored to the same addresses. -/
def SameMem (s t : State) : Prop := (∀ a, t.byteAt a = s.byteAt a) ∧ t.stored = s.stored

/-- Nothing is raised and the parameters stay. -/
def SameRun (s t : State) : Prop := t.exc = s.exc ∧ t.config = s.config

/-- Control goes on in a straight line (10_state.md R25, R26). -/
def Continues (s t : State) : Prop := t.pc = s.npc ∧ t.npc = s.npc + 4 ∧ t.inDelaySlot = false

/-- The HI/LO guards count down (70_reset_and_hazards.md R350). -/
def GuardsCount (s t : State) : Prop :=
  t.hiGuard.toNat = s.hiGuard.toNat - 1 ∧ t.loGuard.toNat = s.loGuard.toNat - 1

/-- Nothing but the general registers listed, the program counters, the guards and the model's own bookkeeping changes. -/
def OnlyRegs (s t : State) (written : List RegIdx) : Prop :=
  SameRegs s t written ∧ SameHiLo s t ∧ SameLink s t ∧ SameMem s t ∧ SameRun s t ∧ GuardsCount s t

/-! ### What an instruction does -/

/-- The instruction completes: it writes the value to the register (register 0 discards it, 10_state.md R21) and changes
nothing else. -/
def Writes (i : Instr) (s : State) (rd : RegIdx) (v : DWord) : Prop :=
  ∃ t, exec i s = .next t ∧ t.reg rd = (if rd = 0 then 0 else v) ∧ OnlyRegs s t [rd] ∧ Continues s t

/-- The instruction completes with a fresh free value in the register, and changes nothing else (00_scope.md R11 `any`). -/
def WritesAny (i : Instr) (s : State) (rd : RegIdx) : Prop :=
  ∃ n, s.draws ≤ n ∧ ∃ t, exec i s = .next t ∧ n < t.draws ∧
    t.reg rd = (if rd = 0 then 0 else Config.freeWord n) ∧ OnlyRegs s t [rd] ∧ Continues s t

/-- The instruction completes and changes nothing but the program counters and the guards. -/
def DoesNothing (i : Instr) (s : State) : Prop := ∃ t, exec i s = .next t ∧ OnlyRegs s t [] ∧ Continues s t

/-- HI and LO hold the values, which nothing has read yet, and nothing else has changed. -/
def HiLoWritten (s t : State) (hi lo : DWord) : Prop :=
  t.hi = hi ∧ t.lo = lo ∧ t.hiloUnread = true ∧
    SameRegs s t [] ∧ SameLink s t ∧ SameMem s t ∧ SameRun s t ∧ GuardsCount s t ∧ Continues s t

/-- The instruction completes with the values in HI and LO. -/
def WritesHiLo (i : Instr) (s : State) (hi lo : DWord) : Prop := ∃ t, exec i s = .next t ∧ HiLoWritten s t hi lo

/-- The instruction completes with two fresh free values in HI and LO (00_scope.md R11 `any`). -/
def WritesHiLoAny (i : Instr) (s : State) : Prop :=
  ∃ n m, s.draws ≤ n ∧ s.draws ≤ m ∧ n ≠ m ∧
    ∃ t, exec i s = .next t ∧ n < t.draws ∧ m < t.draws ∧ HiLoWritten s t (Config.freeWord n) (Config.freeWord m)

/-- The record of 60_exceptions.md R310 and R311 for an exception raised in a state. -/
def recordIn (s : State) (e : Exception) : ExceptionRecord :=
  ⟨e, if s.inDelaySlot then s.pc - 4 else s.pc, s.inDelaySlot⟩

/-- The instruction raises the exception: the machine stops in the state before the instruction with the record (R308,
R310, R311). -/
def Raises (i : Instr) (s : State) (e : Exception) : Prop := exec i s = .next { s with exc := some (recordIn s e) }

/-- The instruction stores `n` bytes from an address on, those of a value in the byte order of the machine, and changes
nothing else. -/
def Stores (i : Instr) (s : State) (a : Addr) (n : Nat) (v : DWord) : Prop :=
  ∃ t, exec i s = .next t ∧
    (∀ k, k < n → t.byteAt (a + BitVec.ofNat 64 k) = BitVec.ofNat 8 (v.toNat / 256 ^ byteRank s.config n k)) ∧
    (∀ b : Addr, (∀ k, k < n → b ≠ a + BitVec.ofNat 64 k) → t.byteAt b = s.byteAt b) ∧
    (∀ b : Addr, b.toNat ∈ t.stored ↔ b.toNat ∈ s.stored ∨ ∃ k, k < n ∧ b = a + BitVec.ofNat 64 k) ∧
    SameRegs s t [] ∧ SameHiLo s t ∧ SameLink s t ∧ SameRun s t ∧ GuardsCount s t ∧ Continues s t

/-- The instruction stores a part of the aligned item of `n` bytes that holds an address: the byte at place `i`, for each
place of the part, becomes the byte of significance `rank i` of the value. Nothing else changes. -/
def StoresPart (i : Instr) (s : State) (a : Addr) (n : Nat) (part : Nat → Prop) (rank : Nat → Nat) (v : DWord) : Prop :=
  ∃ t, exec i s = .next t ∧
    (∀ k, part k → t.byteAt (itemOf a n + BitVec.ofNat 64 k) = BitVec.ofNat 8 (v.toNat / 256 ^ rank k)) ∧
    (∀ b : Addr, (∀ k, part k → b ≠ itemOf a n + BitVec.ofNat 64 k) → t.byteAt b = s.byteAt b) ∧
    (∀ b : Addr, b.toNat ∈ t.stored ↔ b.toNat ∈ s.stored ∨ ∃ k, part k ∧ b = itemOf a n + BitVec.ofNat 64 k) ∧
    SameRegs s t [] ∧ SameHiLo s t ∧ SameLink s t ∧ SameRun s t ∧ GuardsCount s t ∧ Continues s t

/-- A jump completes: it writes the link values listed, and the target follows the delay slot (40_jump_branch.md R112). -/
def JumpsTo (i : Instr) (s : State) (link : List RegIdx) (target : Addr) : Prop :=
  ∃ t, exec i s = .next t ∧ t.pc = s.npc ∧ t.npc = target ∧ t.inDelaySlot = true ∧
    (∀ r ∈ link, t.reg r = if r = 0 then 0 else s.pc + 8) ∧ OnlyRegs s t link

/-- A branch completes: its delay slot is executed in either case, and the target follows it if the condition holds
(R112). -/
def Branches (i : Instr) (s : State) (link : List RegIdx) (cond : Prop) (target : Addr) : Prop :=
  ∃ t, exec i s = .next t ∧ t.pc = s.npc ∧ (cond → t.npc = target) ∧ (¬cond → t.npc = s.npc + 4) ∧
    t.inDelaySlot = true ∧ (∀ r ∈ link, t.reg r = if r = 0 then 0 else s.pc + 8) ∧ OnlyRegs s t link

/-- A branch likely completes: its delay slot is executed if the condition holds, and nullified if not (R114). -/
def BranchesLikely (i : Instr) (s : State) (link : List RegIdx) (cond : Prop) (target : Addr) : Prop :=
  ∃ t, exec i s = .next t ∧
    (cond → t.pc = s.npc ∧ t.npc = target ∧ t.inDelaySlot = true) ∧
    (¬cond → t.pc = s.npc + 4 ∧ t.npc = s.npc + 8 ∧ t.inDelaySlot = false) ∧
    (¬cond → s.npc = s.pc + 4 → t.pc = s.pc + 8 ∧ t.npc = s.pc + 12) ∧
    (∀ r ∈ link, t.reg r = if r = 0 then 0 else s.pc + 8) ∧ OnlyRegs s t link

/-- The target of a branch: the delay slot's address and the signed displacement in words (40_jump_branch.md R110). -/
def branchTo (pc : Addr) (offset : BitVec 16) : Addr := pc + 4 + BitVec.ofInt 64 (offset.toInt * 4)

/-- The target of J and JAL: the upper 36 bits of the delay slot's address, and the index in words (R111). -/
def jumpToIndex (pc : Addr) (index : BitVec 26) : Addr :=
  BitVec.ofNat 64 ((pc + 4).toNat / 2 ^ 28 * 2 ^ 28 + index.toNat * 4)

/-- A trap: the exception if the condition holds, else nothing (47_trap_system.md R260). -/
def Traps (i : Instr) (s : State) (cond : Prop) (code : BitVec 10) : Prop :=
  (cond → Raises i s (.trap code)) ∧ (¬cond → DoesNothing i s)

/-- Some byte of an access may not be accessed, and this is the exception: Address Error where the platform says of a byte
that it is outside what the mode may touch (60_exceptions.md R303 (c)), else `MemoryFault` (R304; log entry 5). -/
def Denied (c : Config) (kind : AccessKind) (moved : Addr → Prop) (ea : Addr) (e : Exception) : Prop :=
  (∃ a, moved a ∧ byteAnswer c.regions kind a ≠ .allowed) ∧
    ((∃ a, moved a ∧ byteAnswer c.regions kind a = .addressError) → e = addressErrorOf kind ea) ∧
    ((∀ a, moved a → byteAnswer c.regions kind a ≠ .addressError) → e = .memoryFault ea kind)

/-- The bytes of a whole item. -/
def WholeItem (a : Addr) (n : Nat) (b : Addr) : Prop := ∃ k, k < n ∧ b = a + BitVec.ofNat 64 k

/-- The bytes of a part of an aligned item. -/
def PartOfItem (a : Addr) (n : Nat) (part : Nat → Prop) (b : Addr) : Prop :=
  ∃ k, part k ∧ b = itemOf a n + BitVec.ofNat 64 k

/-- The destinations under a hazard hold fresh free values, register 0 apart, and every other register reads as before
(R350's alternative). -/
def HazardsReplaced (i : Instr) (s t : State) : Prop :=
  (∀ r, ¬Hazarded i s r → t.reg r = s.reg r) ∧
    ∀ r, r ≠ 0 → Hazarded i s r → ∃ n, s.draws ≤ n ∧ n < t.draws ∧ t.reg r = Config.freeWord n

/-- A load linked completes: the register, `LLbit` and `LLaddr` are written, a sequence of R191 (b) begins in the block of the
instruction (log entry 10), and nothing else changes. -/
def LoadsLinked (i : Instr) (s : State) (rt : RegIdx) (v : DWord) (w : LinkWidth) (ea : Addr) : Prop :=
  ∃ t, exec i s = .next t ∧ t.reg rt = (if rt = 0 then 0 else v) ∧ t.llBit = true ∧ t.llAddr = ea ∧
    t.llWidth = some w ∧ t.llIntact = true ∧ t.llBlock = blockOf s.pc ∧ SameRegs s t [rt] ∧ SameHiLo s t ∧ SameMem s t ∧
    SameRun s t ∧ GuardsCount s t ∧ Continues s t

/-- The store conditional is paired with the last load linked: the same address and the same width
(43_atomic_prefetch_sync.md R196). -/
def Paired (s : State) (w : LinkWidth) (ea : Addr) : Prop := s.llWidth = some w ∧ s.llAddr = ea

/-- R191 (c)'s strengthening applies: it is taken, and the sequence obeys R191 (b). -/
def MustSucceed (s : State) : Prop :=
  s.config.scPolicy = .succeedsIfIntact ∧ s.llIntact = true ∧ blockOf s.pc = s.llBlock

/-- Whether a store conditional may store: never where it is paired and `LLbit` is 0 (R191 (c)); always where it is paired,
`LLbit` is 1 and the strengthening applies; a fresh free choice in every other case (R191 (c), R196). -/
def ScChoice (s t : State) (w : LinkWidth) (ea : Addr) (ok : Bool) : Prop :=
  (Paired s w ea → s.llBit = false → ok = false) ∧
    (Paired s w ea → s.llBit = true → MustSucceed s → ok = true) ∧
    ((Paired s w ea → s.llBit = true ∧ ¬MustSucceed s) → ∃ n, s.draws ≤ n ∧ n < t.draws ∧ ok = Config.freeBit n)

/-- A store conditional of `n` bytes completes: it stores or not, reports which, leaves `LLbit` a fresh free bit, and changes
nothing else (R194). -/
def StoresConditionally (i : Instr) (s : State) (rt : RegIdx) (w : LinkWidth) (ea : Addr) (n : Nat) : Prop :=
  ∃ ok t, exec i s = .next t ∧ ScChoice s t w ea ok ∧ t.reg rt = (if rt = 0 then 0 else if ok then 1 else 0) ∧
    (ok = true → ∀ k, k < n →
      t.byteAt (ea + BitVec.ofNat 64 k) = BitVec.ofNat 8 ((s.reg rt).toNat / 256 ^ byteRank s.config n k)) ∧
    (∀ b : Addr, (ok = true → ¬WholeItem ea n b) → t.byteAt b = s.byteAt b) ∧
    (∀ b : Addr, b.toNat ∈ t.stored ↔ b.toNat ∈ s.stored ∨ (ok = true ∧ WholeItem ea n b)) ∧
    (∃ m, s.draws ≤ m ∧ m < t.draws ∧ t.llBit = Config.freeBit m) ∧
    t.llAddr = s.llAddr ∧ t.llWidth = s.llWidth ∧ t.llBlock = s.llBlock ∧
    SameRegs s t [rt] ∧ SameHiLo s t ∧ SameRun s t ∧ GuardsCount s t ∧ Continues s t

end Sys2Proof.Machine
end

