-- ==== Sys2Proof/Certificates/Slice0/Obligations.lean ====
section
/-! DEFINITION. The statements for the provers. Each docstring names the rules of spec/ the statement rests on; a clause that
rests on a choice of the model names its log entry. -/

open Sys2Proof Sys2Proof.Machine

/-! ### Encoding -/

/-- Decoding an encoded instruction gives it back, as a word and as the four bytes the hardware stores, for every
instruction of the mode's map with every operand (30_encoding.md R71 to R73, R75, R80 to R82, R89). -/
def Obligations.DecodeEncode : Prop :=
  ∀ (c : Config) (i : Instr), i.inMap c.isaMode = true →
    decode c (encode i) = .ok i ∧
      ∃ b0 b1 b2 b3, bytesOfWord c.bigEndian (encode i) = [b0, b1, b2, b3] ∧ decodeBytes c b0 b1 b2 b3 = .ok i

/-- Every word is decoded to an instruction of the mode's map, which it is the encoding of unless the instruction is
reserved under the parameters; or it is refused for a must-be-zero field, and then it encodes no instruction of the map
(30_encoding.md R75, R79, R89). The order of the two tests is 70_reset_and_hazards.md R357's (log entry 15). -/
def Obligations.EveryWordIsAnswered : Prop :=
  ∀ (c : Config) (w : Word),
    (∃ i, decode c w = .ok i ∧ i.inMap c.isaMode = true ∧ (reserves c i.level = true ∨ encode i = w)) ∨
      (∃ i, decode c w = .error (.mustBeZeroField i) ∧ ∀ j : Instr, j.inMap c.isaMode = true → encode j ≠ w)

/-- Words written out from the spec's examples decode to the instructions they stand for. -/
def Obligations.ExampleWordsDecode : Prop :=
  decodeTableWord 32 0x8C220004 = some (.lw 2 4 1) ∧ decodeTableWord 32 0x00221820 = some (.add 3 1 2) ∧
    decodeTableWord 32 0x2022FFFF = some (.addi 2 1 0xFFFF) ∧ decodeTableWord 32 0x0C000400 = some (.jal 0x400) ∧
    decodeTableWord 32 0x04930004 = some (.bgezall 4 4) ∧ decodeTableWord 32 0x0001113E = some (.dsrl32 2 1 4) ∧
    decodeTableWord 32 0x0022001A = some (.div 1 2) ∧ decodeTableWord 32 0x002201F4 = some (.teq 1 2 7) ∧
    decodeTableWord 32 0x0048D14C = some (.syscall 0x12345) ∧ decodeTableWord 32 0xCC850010 = some (.pref 5 16 4) ∧
    decodeTableWord 32 0x44000000 = some (.cop1 0) ∧ decodeTableWord 32 0x00000005 = some (.reservedSpecial000101 0) ∧
    decodeTableWord 32 0x0000004F = none

/-! ### One step -/

/-- A step fetches the word at `pc` and runs the instruction it decodes to (20_memory.md R43, 70_reset_and_hazards.md R357):
where the machine runs, `pc` is a word boundary, the four bytes may be fetched and the run has not stored to them. -/
def Obligations.StepRunsFetchedInstruction : Prop :=
  ∀ (s : State) (i : Instr), s.exc = none → s.pc.toNat % 4 = 0 → Allowed s.config .fetch s.pc 4 →
    (∀ k, k < 4 → (s.pc + BitVec.ofNat 64 k).toNat ∉ s.stored) →
    decode s.config (BitVec.ofNat 32 (memValue s s.pc 4)) = .ok i → step s = exec i s

/-- An instruction placed at `pc` in the byte order of the machine is the one the next step runs, in the state with those
four bytes placed and nothing else changed (20_memory.md R43; log entry 16). -/
def Obligations.PlacedInstructionRuns : Prop :=
  ∀ (s : State) (i : Instr), s.exc = none → s.pc.toNat % 4 = 0 → Allowed s.config .fetch s.pc 4 →
    i.inMap s.config.isaMode = true →
    ∃ t, t = s.withFetchWord 32 (encode i).toNat ∧ step t = exec i t ∧
      t = { s with mem := t.mem, stored := t.stored } ∧
      ∀ b : Addr, ¬WholeItem s.pc 4 b → t.byteAt b = s.byteAt b ∧ (b.toNat ∈ t.stored ↔ b.toNat ∈ s.stored)

/-- The fetch's own exceptions, and their order (60_exceptions.md R303 (b), R304, R309): a misaligned `pc`, then an address
that may not be fetched. That a platform may answer Address Error there is log entry 5's. -/
def Obligations.FetchExceptions : Prop :=
  ∀ s : State, s.exc = none →
    (s.pc.toNat % 4 ≠ 0 → step s = .next { s with exc := some (recordIn s (.addressErrorLoad s.pc)) }) ∧
      ∀ e, s.pc.toNat % 4 = 0 → Denied s.config .fetch (WholeItem s.pc 4) s.pc e →
        step s = .next { s with exc := some (recordIn s e) }

/-- A step refuses to fetch a byte the run has stored to (20_memory.md R58, D15), and refuses a word with a non-zero
must-be-zero field (30_encoding.md R79, D16). -/
def Obligations.StepRefusals : Prop :=
  ∀ s : State, s.exc = none → s.pc.toNat % 4 = 0 → Allowed s.config .fetch s.pc 4 →
    ((∃ k, k < 4 ∧ (s.pc + BitVec.ofNat 64 k).toNat ∈ s.stored) → step s = .refused (.fetchOfStoredByte s.pc)) ∧
      ∀ i, (∀ k, k < 4 → (s.pc + BitVec.ofNat 64 k).toNat ∉ s.stored) →
        decode s.config (BitVec.ofNat 32 (memValue s s.pc 4)) = .error (.mustBeZeroField i) →
        step s = .refused (.mustBeZeroField i)

/-! ### Exceptions -/

/-- Taking an exception: the machine stops in the state before the instruction with the record of R311, and takes no further
step (60_exceptions.md R308, R310, R311). That the stop is a next state with the record set, and the step after it the fault
`halted`, is the model's form of R310 (log entry 7); the count of draws, left free here, is the model's own (log entry 6). -/
def Obligations.ExceptionsArePrecise : Prop :=
  ∀ (s t : State) (r : ExceptionRecord), step s = .next t → t.exc = some r →
    t = { s with exc := some (recordIn s r.exception), draws := t.draws } ∧ step t = .fault .halted

/-- Every reserved cell raises Reserved Instruction in every mode, and the historic coprocessor 3 entries do in the one mode
that selects them (30_encoding.md R90, 48_non_cpu.md R296, 60_exceptions.md R301). -/
def Obligations.ReservedCellsRaise : Prop :=
  ∀ (s : State) (x : BitVec 26) (y : BitVec 20) (r q : RegIdx) (m : BitVec 16),
    let raises := fun i => Raises i s .reservedInstruction
    raises (.reservedOp011100 x) ∧ raises (.reservedOp011101 x) ∧ raises (.reservedOp011110 x) ∧
    raises (.reservedOp011111 x) ∧ raises (.reservedOp111011 x) ∧ raises (.reservedSpecial000101 y) ∧
    raises (.reservedSpecial001110 y) ∧ raises (.reservedSpecial010101 y) ∧ raises (.reservedSpecial101000 y) ∧
    raises (.reservedSpecial101001 y) ∧ raises (.reservedSpecial110101 y) ∧ raises (.reservedSpecial110111 y) ∧
    raises (.reservedSpecial111001 y) ∧ raises (.reservedSpecial111101 y) ∧ raises (.reservedRegimm00100 r m) ∧
    raises (.reservedRegimm00101 r m) ∧ raises (.reservedRegimm00110 r m) ∧ raises (.reservedRegimm00111 r m) ∧
    raises (.reservedRegimm01101 r m) ∧ raises (.reservedRegimm01111 r m) ∧ raises (.reservedRegimm10100 r m) ∧
    raises (.reservedRegimm10101 r m) ∧ raises (.reservedRegimm10110 r m) ∧ raises (.reservedRegimm10111 r m) ∧
    raises (.reservedRegimm11000 r m) ∧ raises (.reservedRegimm11001 r m) ∧ raises (.reservedRegimm11010 r m) ∧
    raises (.reservedRegimm11011 r m) ∧ raises (.reservedRegimm11100 r m) ∧ raises (.reservedRegimm11101 r m) ∧
    raises (.reservedRegimm11110 r m) ∧ raises (.reservedRegimm11111 r m) ∧ raises (.cop3 x) ∧
    raises (.lwc3 r m q) ∧ raises (.swc3 r m q) ∧ raises (.ldc3 r m q) ∧ raises (.sdc3 r m q)

/-- SYSCALL and BREAK raise their exception in every state, with the code (47_trap_system.md R276, R277; 60_exceptions.md
R307). -/
def Obligations.SystemCallAndBreakRaise : Prop :=
  ∀ (s : State) (code : BitVec 20),
    Raises (.syscall code) s (.systemCall code) ∧ Raises (.break_ code) s (.breakpoint code)

/-- A conditional trap compares all 64 bits, raises Trap with its code (0 for the immediate forms) where its condition holds,
and does nothing where it does not (47_trap_system.md R260, 60_exceptions.md R306). -/
def Obligations.ConditionalTraps : Prop :=
  ∀ (s : State) (rs rt : RegIdx) (code : BitVec 10) (imm : BitVec 16),
    let a := s.reg rs
    let b := s.reg rt
    let v : DWord := imm.signExtend 64
    Traps (.tge rs rt code) s (a.toInt ≥ b.toInt) code ∧ Traps (.tgeu rs rt code) s (a.toNat ≥ b.toNat) code ∧
    Traps (.tlt rs rt code) s (a.toInt < b.toInt) code ∧ Traps (.tltu rs rt code) s (a.toNat < b.toNat) code ∧
    Traps (.teq rs rt code) s (a = b) code ∧ Traps (.tne rs rt code) s (a ≠ b) code ∧
    Traps (.tgei rs imm) s (a.toInt ≥ v.toInt) 0 ∧ Traps (.tgeiu rs imm) s (a.toNat ≥ v.toNat) 0 ∧
    Traps (.tlti rs imm) s (a.toInt < v.toInt) 0 ∧ Traps (.tltiu rs imm) s (a.toNat < v.toNat) 0 ∧
    Traps (.teqi rs imm) s (a = v) 0 ∧ Traps (.tnei rs imm) s (a ≠ v) 0

/-- An operation of a coprocessor raises Coprocessor Unusable where `CU[z]` is clear, and is refused where it is set
(48_non_cpu.md R281 to R292, R294, R295, R297). COP1X and MOVCI are of level IV (R285, R286). -/
def Obligations.CoprocessorEntries : Prop :=
  ∀ (s : State) (x : BitVec 26) (y : BitVec 20) (r q : RegIdx) (m : BitVec 16),
    let entry := fun (z : Fin 4) (i : Instr) =>
      (s.config.cu[z] = false → Raises i s (.coprocessorUnusable z)) ∧
        (s.config.cu[z] = true → exec i s = .refused (.coprocessorEnabled z))
    entry 0 (.cop0 x) ∧ entry 1 (.cop1 x) ∧ entry 2 (.cop2 x) ∧ entry 1 (.lwc1 r m q) ∧ entry 2 (.lwc2 r m q) ∧
    entry 1 (.swc1 r m q) ∧ entry 2 (.swc2 r m q) ∧ entry 1 (.ldc1 r m q) ∧ entry 2 (.ldc2 r m q) ∧
    entry 1 (.sdc1 r m q) ∧ entry 2 (.sdc2 r m q) ∧
    (HasIV s.config → entry 1 (.cop1x x) ∧ entry 1 (.movci y))

/-- The rho opcode raises Reserved Instruction where the implementation does not use it, and is an operation of coprocessor 0
where it does (48_non_cpu.md R293, D6). -/
def Obligations.RhoEntry : Prop :=
  ∀ (s : State) (r q : RegIdx) (m : BitVec 16),
    (s.config.rhoIsCop0 = false → Raises (.rho r m q) s .reservedInstruction) ∧
    (s.config.rhoIsCop0 = true → s.config.cu[(0 : Fin 4)] = false → Raises (.rho r m q) s (.coprocessorUnusable 0)) ∧
    (s.config.rhoIsCop0 = true → s.config.cu[(0 : Fin 4)] = true →
      exec (.rho r m q) s = .refused (.coprocessorEnabled 0))

/-- The instructions of MIPS III raise Reserved Instruction in mode II and where 64-bit operations are not enabled; those of
MIPS IV raise it in modes II and III (30_encoding.md R89, 60_exceptions.md R301 (b), (e), R309). -/
def Obligations.HigherLevelsRaise : Prop :=
  ∀ (s : State) (d t r : RegIdx) (sa : BitVec 5) (m : BitVec 16) (x : BitVec 26) (y : BitVec 20),
    let raises := fun i => Raises i s .reservedInstruction
    (¬Has64 s.config →
      raises (.daddi t r m) ∧ raises (.daddiu t r m) ∧ raises (.ldl t m r) ∧ raises (.ldr t m r) ∧
      raises (.lwu t m r) ∧ raises (.ld t m r) ∧ raises (.sdl t m r) ∧ raises (.sdr t m r) ∧ raises (.sd t m r) ∧
      raises (.lld t m r) ∧ raises (.scd t m r) ∧ raises (.dsllv d t r) ∧ raises (.dsrlv d t r) ∧
      raises (.dsrav d t r) ∧ raises (.dsll d t sa) ∧ raises (.dsrl d t sa) ∧ raises (.dsra d t sa) ∧
      raises (.dsll32 d t sa) ∧ raises (.dsrl32 d t sa) ∧ raises (.dsra32 d t sa) ∧ raises (.dadd d r t) ∧
      raises (.daddu d r t) ∧ raises (.dsub d r t) ∧ raises (.dsubu d r t) ∧ raises (.dmult r t) ∧
      raises (.dmultu r t) ∧ raises (.ddiv r t) ∧ raises (.ddivu r t)) ∧
    (¬HasIV s.config →
      raises (.movz d r t) ∧ raises (.movn d r t) ∧ raises (.pref t m r) ∧ raises (.cop1x x) ∧ raises (.movci y))

/-! ### Arithmetic and logic -/

/-- The word operations that do not trap: the 32-bit sum or difference, sign-extended (41_alu_immediate.md R145,
45_alu_register.md R224, R226). -/
def Obligations.WordArithmetic : Prop :=
  ∀ (s : State) (rd rs rt : RegIdx) (imm : BitVec 16), IsWord (s.reg rs) →
    Writes (.addiu rt rs imm) s rt (sextWord ((s.reg rs).setWidth 32 + imm.signExtend 32)) ∧
    (IsWord (s.reg rt) →
      Writes (.addu rd rs rt) s rd (sextWord ((s.reg rs).setWidth 32 + (s.reg rt).setWidth 32)) ∧
      Writes (.subu rd rs rt) s rd (sextWord ((s.reg rs).setWidth 32 - (s.reg rt).setWidth 32)))

/-- Signed overflow: an addition or subtraction that traps writes its exact result where the width holds it, and otherwise
raises IntegerOverflow with the destination not written (41_alu_immediate.md R142, 45_alu_register.md R221). -/
def Obligations.TrappingArithmetic : Prop :=
  ∀ (s : State) (rd rs rt : RegIdx) (imm : BitVec 16),
    let a := (s.reg rs).toInt
    let b := (s.reg rt).toInt
    (IsWord (s.reg rs) →
      (FitsWord (a + imm.toInt) → Writes (.addi rt rs imm) s rt (BitVec.ofInt 64 (a + imm.toInt))) ∧
      (¬FitsWord (a + imm.toInt) → Raises (.addi rt rs imm) s .integerOverflow)) ∧
    (IsWord (s.reg rs) → IsWord (s.reg rt) →
      (FitsWord (a + b) → Writes (.add rd rs rt) s rd (BitVec.ofInt 64 (a + b))) ∧
      (¬FitsWord (a + b) → Raises (.add rd rs rt) s .integerOverflow) ∧
      (FitsWord (a - b) → Writes (.sub rd rs rt) s rd (BitVec.ofInt 64 (a - b))) ∧
      (¬FitsWord (a - b) → Raises (.sub rd rs rt) s .integerOverflow)) ∧
    (Has64 s.config →
      (FitsDoubleword (a + imm.toInt) → Writes (.daddi rt rs imm) s rt (BitVec.ofInt 64 (a + imm.toInt))) ∧
      (¬FitsDoubleword (a + imm.toInt) → Raises (.daddi rt rs imm) s .integerOverflow) ∧
      (FitsDoubleword (a + b) → Writes (.dadd rd rs rt) s rd (BitVec.ofInt 64 (a + b))) ∧
      (¬FitsDoubleword (a + b) → Raises (.dadd rd rs rt) s .integerOverflow) ∧
      (FitsDoubleword (a - b) → Writes (.dsub rd rs rt) s rd (BitVec.ofInt 64 (a - b))) ∧
      (¬FitsDoubleword (a - b) → Raises (.dsub rd rs rt) s .integerOverflow))

/-- A word operation on a register that holds no word value completes with any value in its destination; one that traps may
raise IntegerOverflow instead (41_alu_immediate.md R141, 45_alu_register.md R220, D11). That the value need not be a word
value, and that a free bit decides the exception, are the model's choices (log entries 20 and 8). -/
def Obligations.NonWordArithmetic : Prop :=
  ∀ (s : State) (rd rs rt : RegIdx) (imm : BitVec 16),
    let traps := fun i => ∃ d, exec i s = .next { s with exc := some (recordIn s .integerOverflow), draws := d }
    (¬IsWord (s.reg rs) →
      WritesAny (.addiu rt rs imm) s rt ∧ (WritesAny (.addi rt rs imm) s rt ∨ traps (.addi rt rs imm))) ∧
    (¬(IsWord (s.reg rs) ∧ IsWord (s.reg rt)) →
      WritesAny (.addu rd rs rt) s rd ∧ WritesAny (.subu rd rs rt) s rd ∧
      (WritesAny (.add rd rs rt) s rd ∨ traps (.add rd rs rt)) ∧
      (WritesAny (.sub rd rs rt) s rd ∨ traps (.sub rd rs rt)))

/-- The doubleword operations that do not trap work modulo 2^64 (41_alu_immediate.md R153, 45_alu_register.md R228, R230). -/
def Obligations.DoublewordArithmetic : Prop :=
  ∀ (s : State) (rd rs rt : RegIdx) (imm : BitVec 16), Has64 s.config →
    Writes (.daddu rd rs rt) s rd (BitVec.ofInt 64 ((s.reg rs).toInt + (s.reg rt).toInt)) ∧
    Writes (.dsubu rd rs rt) s rd (BitVec.ofInt 64 ((s.reg rs).toInt - (s.reg rt).toInt)) ∧
    Writes (.daddiu rt rs imm) s rt (BitVec.ofInt 64 ((s.reg rs).toInt + imm.toInt))

/-- The logical operations on all 64 bits, the immediate zero-extended, and LUI (41_alu_immediate.md R148 to R151,
45_alu_register.md R231 to R234). -/
def Obligations.LogicalOperations : Prop :=
  ∀ (s : State) (rd rs rt : RegIdx) (imm : BitVec 16),
    Writes (.and_ rd rs rt) s rd (s.reg rs &&& s.reg rt) ∧ Writes (.or_ rd rs rt) s rd (s.reg rs ||| s.reg rt) ∧
    Writes (.xor_ rd rs rt) s rd (s.reg rs ^^^ s.reg rt) ∧ Writes (.nor rd rs rt) s rd (~~~(s.reg rs ||| s.reg rt)) ∧
    Writes (.andi rt rs imm) s rt (s.reg rs &&& BitVec.ofNat 64 imm.toNat) ∧
    Writes (.ori rt rs imm) s rt (s.reg rs ||| BitVec.ofNat 64 imm.toNat) ∧
    Writes (.xori rt rs imm) s rt (s.reg rs ^^^ BitVec.ofNat 64 imm.toNat) ∧
    Writes (.lui rt imm) s rt (BitVec.ofInt 64 (imm.toInt * 65536))

/-- The comparisons write 1 or 0; the immediate is sign-extended in both (10_state.md R27, 41_alu_immediate.md R146, R147,
45_alu_register.md R235, R236). -/
def Obligations.Comparisons : Prop :=
  ∀ (s : State) (rd rs rt : RegIdx) (imm : BitVec 16),
    Writes (.slt rd rs rt) s rd (if (s.reg rs).toInt < (s.reg rt).toInt then 1 else 0) ∧
    Writes (.sltu rd rs rt) s rd (if (s.reg rs).toNat < (s.reg rt).toNat then 1 else 0) ∧
    Writes (.slti rt rs imm) s rt (if (s.reg rs).toInt < imm.toInt then 1 else 0) ∧
    Writes (.sltiu rt rs imm) s rt (if (s.reg rs).toNat < (imm.signExtend 64 : DWord).toNat then 1 else 0)

/-- The conditional moves write their source where the condition holds, and change nothing where it does not
(45_alu_register.md R237, R238). -/
def Obligations.ConditionalMoves : Prop :=
  ∀ (s : State) (rd rs rt : RegIdx), HasIV s.config →
    (s.reg rt = 0 → Writes (.movz rd rs rt) s rd (s.reg rs) ∧ DoesNothing (.movn rd rs rt) s) ∧
    (s.reg rt ≠ 0 → Writes (.movn rd rs rt) s rd (s.reg rs) ∧ DoesNothing (.movz rd rs rt) s)

/-! ### Shifts -/

/-- The word shifts work on the low 32 bits and write the 32-bit result sign-extended. The left shifts have no precondition;
the right shifts need a word value, and write any value where there is none (44_shift.md R201). -/
def Obligations.WordShifts : Prop :=
  ∀ (s : State) (rd rt rs : RegIdx) (sa : BitVec 5),
    let v := s.reg rt
    let n := (s.reg rs).toNat % 32
    Writes (.sll rd rt sa) s rd (sextWord (BitVec.ofNat 32 (v.toNat * 2 ^ sa.toNat))) ∧
    Writes (.sllv rd rt rs) s rd (sextWord (BitVec.ofNat 32 (v.toNat * 2 ^ n))) ∧
    (IsWord v →
      Writes (.srl rd rt sa) s rd (sextWord (BitVec.ofNat 32 (v.toNat % 2 ^ 32 / 2 ^ sa.toNat))) ∧
      Writes (.srlv rd rt rs) s rd (sextWord (BitVec.ofNat 32 (v.toNat % 2 ^ 32 / 2 ^ n))) ∧
      Writes (.sra rd rt sa) s rd (BitVec.ofInt 64 (v.toInt / 2 ^ sa.toNat)) ∧
      Writes (.srav rd rt rs) s rd (BitVec.ofInt 64 (v.toInt / 2 ^ n))) ∧
    (¬IsWord v →
      WritesAny (.srl rd rt sa) s rd ∧ WritesAny (.srlv rd rt rs) s rd ∧ WritesAny (.sra rd rt sa) s rd ∧
      WritesAny (.srav rd rt rs) s rd)

/-- The doubleword shifts, by `sa`, by `sa` + 32, or by the low 6 bits of a register (44_shift.md R200, R209 to R217). -/
def Obligations.DoublewordShifts : Prop :=
  ∀ (s : State) (rd rt rs : RegIdx) (sa : BitVec 5), Has64 s.config →
    let v := s.reg rt
    let n := (s.reg rs).toNat % 64
    let m := sa.toNat + 32
    Writes (.dsll rd rt sa) s rd (BitVec.ofNat 64 (v.toNat * 2 ^ sa.toNat)) ∧
    Writes (.dsrl rd rt sa) s rd (BitVec.ofNat 64 (v.toNat / 2 ^ sa.toNat)) ∧
    Writes (.dsra rd rt sa) s rd (BitVec.ofInt 64 (v.toInt / 2 ^ sa.toNat)) ∧
    Writes (.dsll32 rd rt sa) s rd (BitVec.ofNat 64 (v.toNat * 2 ^ m)) ∧
    Writes (.dsrl32 rd rt sa) s rd (BitVec.ofNat 64 (v.toNat / 2 ^ m)) ∧
    Writes (.dsra32 rd rt sa) s rd (BitVec.ofInt 64 (v.toInt / 2 ^ m)) ∧
    Writes (.dsllv rd rt rs) s rd (BitVec.ofNat 64 (v.toNat * 2 ^ n)) ∧
    Writes (.dsrlv rd rt rs) s rd (BitVec.ofNat 64 (v.toNat / 2 ^ n)) ∧
    Writes (.dsrav rd rt rs) s rd (BitVec.ofInt 64 (v.toInt / 2 ^ n))

/-! ### Multiply, divide, HI and LO -/

/-- The word multiplies: both halves of the exact 64-bit product, each sign-extended (46_muldiv.md R240, R241, R249, R250). -/
def Obligations.WordMultiply : Prop :=
  ∀ (s : State) (rs rt : RegIdx), s.hiGuard = 0 → s.loGuard = 0 → IsWord (s.reg rs) → IsWord (s.reg rt) →
    let p := (s.reg rs).toInt * (s.reg rt).toInt
    let u := (s.reg rs).toNat % 2 ^ 32 * ((s.reg rt).toNat % 2 ^ 32)
    WritesHiLo (.mult rs rt) s (sextWord (BitVec.ofInt 32 (p / 2 ^ 32))) (sextWord (BitVec.ofInt 32 p)) ∧
    WritesHiLo (.multu rs rt) s (sextWord (BitVec.ofNat 32 (u / 2 ^ 32))) (sextWord (BitVec.ofNat 32 u))

/-- The word divides: LO the quotient truncated toward zero, HI the remainder (46_muldiv.md R242, R251, R252). -/
def Obligations.WordDivide : Prop :=
  ∀ (s : State) (rs rt : RegIdx), s.hiGuard = 0 → s.loGuard = 0 → IsWord (s.reg rs) → IsWord (s.reg rt) →
    s.reg rt ≠ 0 →
    let a := (s.reg rs).toInt
    let b := (s.reg rt).toInt
    let x := (s.reg rs).toNat % 2 ^ 32
    let y := (s.reg rt).toNat % 2 ^ 32
    (¬(a = -2 ^ 31 ∧ b = -1) → WritesHiLo (.div rs rt) s (BitVec.ofInt 64 (a.tmod b)) (BitVec.ofInt 64 (a.tdiv b))) ∧
    WritesHiLo (.divu rs rt) s (sextWord (BitVec.ofNat 32 (x % y))) (sextWord (BitVec.ofNat 32 (x / y)))

/-- The doubleword multiplies and divides (46_muldiv.md R253 to R256). -/
def Obligations.DoublewordMultiplyDivide : Prop :=
  ∀ (s : State) (rs rt : RegIdx), Has64 s.config → s.hiGuard = 0 → s.loGuard = 0 →
    let a := s.reg rs
    let b := s.reg rt
    let p := a.toInt * b.toInt
    let u := a.toNat * b.toNat
    WritesHiLo (.dmult rs rt) s (BitVec.ofInt 64 (p / 2 ^ 64)) (BitVec.ofInt 64 p) ∧
    WritesHiLo (.dmultu rs rt) s (BitVec.ofNat 64 (u / 2 ^ 64)) (BitVec.ofNat 64 u) ∧
    (b ≠ 0 → ¬(a.toInt = -2 ^ 63 ∧ b.toInt = -1) →
      WritesHiLo (.ddiv rs rt) s (BitVec.ofInt 64 (a.toInt.tmod b.toInt)) (BitVec.ofInt 64 (a.toInt.tdiv b.toInt))) ∧
    (b ≠ 0 → WritesHiLo (.ddivu rs rt) s (BitVec.ofNat 64 (a.toNat % b.toNat)) (BitVec.ofNat 64 (a.toNat / b.toNat)))

/-- HI and LO become any values where an operand of a word form is no word value, where the divisor is zero, and for the
most negative value divided by -1; no exception is raised (46_muldiv.md R240 to R242, D10, D11). That the values need not be
word values after a word form is the model's choice (log entry 20). -/
def Obligations.UndefinedMultiplyDivide : Prop :=
  ∀ (s : State) (rs rt : RegIdx), s.hiGuard = 0 → s.loGuard = 0 →
    let a := s.reg rs
    let b := s.reg rt
    (¬(IsWord a ∧ IsWord b) →
      WritesHiLoAny (.mult rs rt) s ∧ WritesHiLoAny (.multu rs rt) s ∧ WritesHiLoAny (.div rs rt) s ∧
      WritesHiLoAny (.divu rs rt) s) ∧
    (b = 0 → WritesHiLoAny (.div rs rt) s ∧ WritesHiLoAny (.divu rs rt) s) ∧
    (a.toInt = -2 ^ 31 → b.toInt = -1 → WritesHiLoAny (.div rs rt) s) ∧
    (Has64 s.config →
      (b = 0 → WritesHiLoAny (.ddiv rs rt) s ∧ WritesHiLoAny (.ddivu rs rt) s) ∧
      (a.toInt = -2 ^ 63 → b.toInt = -1 → WritesHiLoAny (.ddiv rs rt) s))

/-- MFHI and MFLO move the register, clear `hiloUnread`, guard HI or LO for the next two instructions, and record their
destination (46_muldiv.md R243, R245, R247; 70_reset_and_hazards.md R350; the record is the model's own, log entry 12). -/
def Obligations.MoveFromHiLo : Prop :=
  ∀ (s : State) (rd : RegIdx),
    let frame := fun (t : State) => t.hi = s.hi ∧ t.lo = s.lo ∧ t.hiloUnread = false ∧ SameRegs s t [rd] ∧
      SameLink s t ∧ SameMem s t ∧ SameRun s t ∧ Continues s t
    let read := if rd = 0 then none else some rd
    (∃ t, exec (.mfhi rd) s = .next t ∧ t.reg rd = (if rd = 0 then 0 else s.hi) ∧ t.hiGuard = 2 ∧
      t.loGuard.toNat = s.loGuard.toNat - 1 ∧ t.hiReads.last = read ∧ frame t) ∧
    (∃ t, exec (.mflo rd) s = .next t ∧ t.reg rd = (if rd = 0 then 0 else s.lo) ∧ t.loGuard = 2 ∧
      t.hiGuard.toNat = s.hiGuard.toNat - 1 ∧ t.loReads.last = read ∧ frame t)

/-- MTHI and MTLO write the register; over a multiply or divide result that nothing has read, the other one becomes any
value, and `hiloUnread` stays (46_muldiv.md R243 (b), R246, R248). -/
def Obligations.MoveToHiLo : Prop :=
  ∀ (s : State) (rs : RegIdx),
    let frame := fun (t : State) => t.hiloUnread = s.hiloUnread ∧ SameRegs s t [] ∧ SameLink s t ∧ SameMem s t ∧
      SameRun s t ∧ GuardsCount s t ∧ Continues s t
    let other := fun (t : State) (old new : DWord) =>
      (s.hiloUnread = false → new = old) ∧
        (s.hiloUnread = true → ∃ n, s.draws ≤ n ∧ n < t.draws ∧ new = Config.freeWord n)
    (s.hiGuard = 0 → ∃ t, exec (.mthi rs) s = .next t ∧ t.hi = s.reg rs ∧ other t s.lo t.lo ∧ frame t) ∧
    (s.loGuard = 0 → ∃ t, exec (.mtlo rs) s = .next t ∧ t.lo = s.reg rs ∧ other t s.hi t.hi ∧ frame t)

/-- A write of HI while `hiGuard` is not 0, and of LO while `loGuard` is not 0, is refused; the multiplies and divides are
tested against both (70_reset_and_hazards.md R350, D17). -/
def Obligations.HiLoHazardRefused : Prop :=
  ∀ (s : State) (rs rt : RegIdx), s.config.hiLoHazard = .refuse →
    let refused := fun i => exec i s = .refused .hiLoHazard
    (s.hiGuard ≠ 0 → refused (.mthi rs)) ∧ (s.loGuard ≠ 0 → refused (.mtlo rs)) ∧
    (s.hiGuard ≠ 0 ∨ s.loGuard ≠ 0 →
      refused (.mult rs rt) ∧ refused (.multu rs rt) ∧ refused (.div rs rt) ∧ refused (.divu rs rt) ∧
      (Has64 s.config →
        refused (.dmult rs rt) ∧ refused (.dmultu rs rt) ∧ refused (.ddiv rs rt) ∧ refused (.ddivu rs rt)))

/-- Under the alternative that R350 allows, a write of HI or LO goes on, guarded or not, and the destinations of the reads it
follows too closely become any values, which it reads where they are its operands. Otherwise MTHI and MTLO do what they do
unguarded, and so do the eight multiplies and divides, which are tested against both guards (70_reset_and_hazards.md R350; the
model's reading of the alternative is log entry 12, and that of `any` after a word form log entry 20). -/
def Obligations.HiLoHazardAny : Prop :=
  ∀ (s : State) (rs rt : RegIdx), s.config.hiLoHazard = .destinationAny →
    let fresh := fun (t : State) (v : DWord) (n : Nat) => s.draws ≤ n ∧ n < t.draws ∧ v = Config.freeWord n
    let goes := fun (i : Instr) (unread : Bool) (result : State → Prop) =>
      ∃ t, exec i s = .next t ∧ HazardsReplaced i s t ∧ result t ∧ t.hiloUnread = unread ∧ SameLink s t ∧ SameMem s t ∧
        SameRun s t ∧ GuardsCount s t ∧ Continues s t
    let other := fun (t : State) (old new : DWord) =>
      (s.hiloUnread = false → new = old) ∧ (s.hiloUnread = true → ∃ n, fresh t new n)
    let gives := fun (i : Instr) (defined : DWord → DWord → Prop) (hi lo : DWord → DWord → DWord) =>
      goes i true fun t =>
        (defined (t.reg rs) (t.reg rt) → t.hi = hi (t.reg rs) (t.reg rt) ∧ t.lo = lo (t.reg rs) (t.reg rt)) ∧
        (¬defined (t.reg rs) (t.reg rt) → ∃ n m, n ≠ m ∧ fresh t t.hi n ∧ fresh t t.lo m)
    let words := fun (a b : DWord) => IsWord a ∧ IsWord b
    let low := fun (a : DWord) => a.toNat % 2 ^ 32
    goes (.mthi rs) s.hiloUnread (fun t => t.hi = t.reg rs ∧ other t s.lo t.lo) ∧
    goes (.mtlo rs) s.hiloUnread (fun t => t.lo = t.reg rs ∧ other t s.hi t.hi) ∧
    gives (.mult rs rt) words (fun a b => sextWord (BitVec.ofInt 32 (a.toInt * b.toInt / 2 ^ 32)))
      (fun a b => sextWord (BitVec.ofInt 32 (a.toInt * b.toInt))) ∧
    gives (.multu rs rt) words (fun a b => sextWord (BitVec.ofNat 32 (low a * low b / 2 ^ 32)))
      (fun a b => sextWord (BitVec.ofNat 32 (low a * low b))) ∧
    gives (.div rs rt) (fun a b => words a b ∧ b ≠ 0 ∧ ¬(a.toInt = -2 ^ 31 ∧ b.toInt = -1))
      (fun a b => BitVec.ofInt 64 (a.toInt.tmod b.toInt)) (fun a b => BitVec.ofInt 64 (a.toInt.tdiv b.toInt)) ∧
    gives (.divu rs rt) (fun a b => words a b ∧ b ≠ 0) (fun a b => sextWord (BitVec.ofNat 32 (low a % low b)))
      (fun a b => sextWord (BitVec.ofNat 32 (low a / low b))) ∧
    (Has64 s.config →
      gives (.dmult rs rt) (fun _ _ => True) (fun a b => BitVec.ofInt 64 (a.toInt * b.toInt / 2 ^ 64))
        (fun a b => BitVec.ofInt 64 (a.toInt * b.toInt)) ∧
      gives (.dmultu rs rt) (fun _ _ => True) (fun a b => BitVec.ofNat 64 (a.toNat * b.toNat / 2 ^ 64))
        (fun a b => BitVec.ofNat 64 (a.toNat * b.toNat)) ∧
      gives (.ddiv rs rt) (fun a b => b ≠ 0 ∧ ¬(a.toInt = -2 ^ 63 ∧ b.toInt = -1))
        (fun a b => BitVec.ofInt 64 (a.toInt.tmod b.toInt)) (fun a b => BitVec.ofInt 64 (a.toInt.tdiv b.toInt)) ∧
      gives (.ddivu rs rt) (fun _ b => b ≠ 0) (fun a b => BitVec.ofNat 64 (a.toNat % b.toNat))
        (fun a b => BitVec.ofNat 64 (a.toNat / b.toNat)))

/-- The windows of reads follow the run: the newest entry is the destination of an MFHI (MFLO) just executed; one instruction
later it is the older entry, unless the register has been written or replaced in between, and then it holds what it held; and
after a second instruction it is gone (70_reset_and_hazards.md R350's two instructions; log entry 12). -/
def Obligations.ReadWindowsFollow : Prop :=
  ∀ (i : Instr) (s t : State), exec i s = .next t → t.exc = none →
    let follows := fun (read : RegIdx → Instr) (old new : ReadWindow) =>
      (∀ r, new.last = some r ↔ i = read r ∧ r ≠ 0) ∧
      (∀ r, new.prev = some r → old.last = some r ∧ t.reg r = s.reg r) ∧
      (∀ r, old.last = some r → destination i ≠ some r → ¬Hazarded i s r → new.prev = some r)
    follows .mfhi s.hiReads t.hiReads ∧ follows .mflo s.loReads t.loReads

/-- HI and LO are written by the ten instructions of 10_state.md R29 alone. -/
def Obligations.OnlyTheseWriteHiLo : Prop :=
  ∀ (i : Instr) (s t : State), exec i s = .next t → t.hi ≠ s.hi ∨ t.lo ≠ s.lo →
    ∃ rs rt, i = .mult rs rt ∨ i = .multu rs rt ∨ i = .div rs rt ∨ i = .divu rs rt ∨ i = .dmult rs rt ∨
      i = .dmultu rs rt ∨ i = .ddiv rs rt ∨ i = .ddivu rs rt ∨ i = .mthi rs ∨ i = .mtlo rs

/-! ### Loads and stores -/

/-- The aligned item that holds an address starts at a multiple of its size, no more than its size below the address
(42_load_store.md section 3). -/
def Obligations.ItemHoldsAddress : Prop :=
  ∀ (a : Addr) (n : Nat), 0 < n →
    (itemOf a n).toNat % n = 0 ∧ (itemOf a n).toNat ≤ a.toNat ∧ a.toNat < (itemOf a n).toNat + n

/-- The aligned loads: the bytes at the effective address in the byte order of the machine, extended by sign or by zeros
(20_memory.md R42, R52; 42_load_store.md R160, R161, R165 to R171). -/
def Obligations.AlignedLoads : Prop :=
  ∀ (s : State) (rt base : RegIdx) (offset : BitVec 16),
    let ea := effectiveAddr s offset base
    let may := fun n => ea.toNat % n = 0 ∧ Allowed s.config .load ea n
    let zext := fun n => BitVec.ofNat 64 (memValue s ea n)
    (may 1 →
      Writes (.lb rt offset base) s rt ((BitVec.ofNat 8 (memValue s ea 1)).signExtend 64) ∧
      Writes (.lbu rt offset base) s rt (zext 1)) ∧
    (may 2 →
      Writes (.lh rt offset base) s rt ((BitVec.ofNat 16 (memValue s ea 2)).signExtend 64) ∧
      Writes (.lhu rt offset base) s rt (zext 2)) ∧
    (may 4 →
      Writes (.lw rt offset base) s rt (sextWord (BitVec.ofNat 32 (memValue s ea 4))) ∧
      (Has64 s.config → Writes (.lwu rt offset base) s rt (zext 4))) ∧
    (may 8 → Has64 s.config → Writes (.ld rt offset base) s rt (zext 8))

/-- The aligned stores store the low-order bytes of the register at the effective address in the byte order of the machine,
whatever its other bits hold, and no other byte changes (42_load_store.md R160, R162, R180 to R183). -/
def Obligations.AlignedStores : Prop :=
  ∀ (s : State) (rt base : RegIdx) (offset : BitVec 16),
    let ea := effectiveAddr s offset base
    let may := fun n => ea.toNat % n = 0 ∧ Allowed s.config .store ea n
    (may 1 → Stores (.sb rt offset base) s ea 1 (s.reg rt)) ∧
    (may 2 → Stores (.sh rt offset base) s ea 2 (s.reg rt)) ∧
    (may 4 → Stores (.sw rt offset base) s ea 4 (s.reg rt)) ∧
    (may 8 → Has64 s.config → Stores (.sd rt offset base) s ea 8 (s.reg rt))

/-- An access that is not aligned to its size raises Address Error with the effective address, and does nothing else
(20_memory.md R45, 60_exceptions.md R303 (a)). -/
def Obligations.MisalignedAccessesRaise : Prop :=
  ∀ (s : State) (rt base : RegIdx) (offset : BitVec 16),
    let ea := effectiveAddr s offset base
    (ea.toNat % 2 ≠ 0 →
      Raises (.lh rt offset base) s (.addressErrorLoad ea) ∧ Raises (.lhu rt offset base) s (.addressErrorLoad ea) ∧
      Raises (.sh rt offset base) s (.addressErrorStore ea)) ∧
    (ea.toNat % 4 ≠ 0 →
      Raises (.lw rt offset base) s (.addressErrorLoad ea) ∧ Raises (.ll rt offset base) s (.addressErrorLoad ea) ∧
      Raises (.sw rt offset base) s (.addressErrorStore ea) ∧ Raises (.sc rt offset base) s (.addressErrorStore ea) ∧
      (Has64 s.config → Raises (.lwu rt offset base) s (.addressErrorLoad ea))) ∧
    (ea.toNat % 8 ≠ 0 → Has64 s.config →
      Raises (.ld rt offset base) s (.addressErrorLoad ea) ∧ Raises (.lld rt offset base) s (.addressErrorLoad ea) ∧
      Raises (.sd rt offset base) s (.addressErrorStore ea) ∧ Raises (.scd rt offset base) s (.addressErrorStore ea))

/-- An access one of whose bytes may not be accessed raises the exception the address map gives it, the alignment having
passed; the bytes tested are those the instruction moves (20_memory.md R49, 60_exceptions.md R304). Which of the two
exceptions a platform answers is log entry 5's. -/
def Obligations.DeniedAccessesRaise : Prop :=
  ∀ (s : State) (rt base : RegIdx) (offset : BitVec 16) (e : Exception),
    let c := s.config
    let ea := effectiveAddr s offset base
    let loads := fun n i => ea.toNat % n = 0 → Denied c .load (WholeItem ea n) ea e → Raises i s e
    let stores := fun n i => ea.toNat % n = 0 → Denied c .store (WholeItem ea n) ea e → Raises i s e
    let parts := fun k n part i => Denied c k (PartOfItem ea n part) ea e → Raises i s e
    loads 1 (.lb rt offset base) ∧ loads 1 (.lbu rt offset base) ∧ loads 2 (.lh rt offset base) ∧
    loads 2 (.lhu rt offset base) ∧ loads 4 (.lw rt offset base) ∧ loads 4 (.ll rt offset base) ∧
    stores 1 (.sb rt offset base) ∧ stores 2 (.sh rt offset base) ∧ stores 4 (.sw rt offset base) ∧
    stores 4 (.sc rt offset base) ∧
    parts .load 4 (InLeft c ea 4) (.lwl rt offset base) ∧ parts .load 4 (InRight c ea 4) (.lwr rt offset base) ∧
    parts .store 4 (InLeft c ea 4) (.swl rt offset base) ∧ parts .store 4 (InRight c ea 4) (.swr rt offset base) ∧
    (Has64 c →
      loads 4 (.lwu rt offset base) ∧ loads 8 (.ld rt offset base) ∧ loads 8 (.lld rt offset base) ∧
      stores 8 (.sd rt offset base) ∧ stores 8 (.scd rt offset base) ∧
      parts .load 8 (InLeft c ea 8) (.ldl rt offset base) ∧ parts .load 8 (InRight c ea 8) (.ldr rt offset base) ∧
      parts .store 8 (InLeft c ea 8) (.sdl rt offset base) ∧ parts .store 8 (InRight c ea 8) (.sdr rt offset base))

/-- The unaligned loads merge a part of the aligned item into the register (42_load_store.md R172 to R175). -/
def Obligations.UnalignedLoads : Prop :=
  ∀ (s : State) (rt base : RegIdx) (offset : BitVec 16),
    let c := s.config
    let ea := effectiveAddr s offset base
    let old := (s.reg rt).toNat
    let word := memValue s (itemOf ea 4) 4
    let dword := memValue s (itemOf ea 8) 8
    let b4 := bytePos c ea 4
    let b8 := bytePos c ea 8
    (AllowedPart c .load ea 4 (InLeft c ea 4) →
      Writes (.lwl rt offset base) s rt
        (sextWord (BitVec.ofNat 32 (word % 2 ^ (8 * b4 + 8) * 2 ^ (24 - 8 * b4) + old % 2 ^ (24 - 8 * b4))))) ∧
    (AllowedPart c .load ea 4 (InRight c ea 4) →
      let temp := BitVec.ofNat 32 (old % 2 ^ 32 / 2 ^ (32 - 8 * b4) * 2 ^ (32 - 8 * b4) + word / 2 ^ (8 * b4))
      Writes (.lwr rt offset base) s rt
        (if b4 = 0 ∨ c.lwrUpperPolicy = .sext then sextWord temp else BitVec.ofNat 32 (old / 2 ^ 32) ++ temp)) ∧
    (Has64 c → AllowedPart c .load ea 8 (InLeft c ea 8) →
      Writes (.ldl rt offset base) s rt
        (BitVec.ofNat 64 (dword % 2 ^ (8 * b8 + 8) * 2 ^ (56 - 8 * b8) + old % 2 ^ (56 - 8 * b8)))) ∧
    (Has64 c → AllowedPart c .load ea 8 (InRight c ea 8) →
      Writes (.ldr rt offset base) s rt
        (BitVec.ofNat 64 (old / 2 ^ (64 - 8 * b8) * 2 ^ (64 - 8 * b8) + dword / 2 ^ (8 * b8))))

/-- The unaligned stores replace a part of the aligned item with bytes of the register, and no other byte
(42_load_store.md R176 to R179). -/
def Obligations.UnalignedStores : Prop :=
  ∀ (s : State) (rt base : RegIdx) (offset : BitVec 16),
    let c := s.config
    let ea := effectiveAddr s offset base
    let b4 := bytePos c ea 4
    let b8 := bytePos c ea 8
    (AllowedPart c .store ea 4 (InLeft c ea 4) →
      StoresPart (.swl rt offset base) s ea 4 (InLeft c ea 4) (fun i => byteRank c 4 i + (3 - b4)) (s.reg rt)) ∧
    (AllowedPart c .store ea 4 (InRight c ea 4) →
      StoresPart (.swr rt offset base) s ea 4 (InRight c ea 4) (fun i => byteRank c 4 i - b4) (s.reg rt)) ∧
    (Has64 c → AllowedPart c .store ea 8 (InLeft c ea 8) →
      StoresPart (.sdl rt offset base) s ea 8 (InLeft c ea 8) (fun i => byteRank c 8 i + (7 - b8)) (s.reg rt)) ∧
    (Has64 c → AllowedPart c .store ea 8 (InRight c ea 8) →
      StoresPart (.sdr rt offset base) s ea 8 (InRight c ea 8) (fun i => byteRank c 8 i - b8) (s.reg rt))

/-- The unaligned idiom loads the item at any address, in either order of the pair: the L form at the item's most
significant byte and the R form at its least significant one (42_load_store.md R185). -/
def Obligations.UnalignedLoadIdiom : Prop :=
  ∀ (s : State) (rt base : RegIdx) (first last : BitVec 16), rt ≠ 0 → rt ≠ base →
    let ea := effectiveAddr s first base
    let far := effectiveAddr s last base
    let left := if s.config.bigEndian then first else last
    let right := if s.config.bigEndian then last else first
    let both := fun (i j : Instr) (v : DWord) =>
      ∃ t u, exec i s = .next t ∧ exec j t = .next u ∧ u.reg rt = v ∧
        SameRegs s u [rt] ∧ SameHiLo s u ∧ SameLink s u ∧ SameMem s u ∧ SameRun s u
    (far = ea + 3 → Allowed s.config .load ea 4 →
      both (.lwl rt left base) (.lwr rt right base) (sextWord (BitVec.ofNat 32 (memValue s ea 4))) ∧
      both (.lwr rt right base) (.lwl rt left base) (sextWord (BitVec.ofNat 32 (memValue s ea 4)))) ∧
    (far = ea + 7 → Has64 s.config → Allowed s.config .load ea 8 →
      both (.ldl rt left base) (.ldr rt right base) (BitVec.ofNat 64 (memValue s ea 8)) ∧
      both (.ldr rt right base) (.ldl rt left base) (BitVec.ofNat 64 (memValue s ea 8)))

/-- The unaligned idiom stores the item at any address, in either order of the pair, and no other byte changes
(42_load_store.md R185). -/
def Obligations.UnalignedStoreIdiom : Prop :=
  ∀ (s : State) (rt base : RegIdx) (first last : BitVec 16),
    let ea := effectiveAddr s first base
    let far := effectiveAddr s last base
    let left := if s.config.bigEndian then first else last
    let right := if s.config.bigEndian then last else first
    let both := fun (n : Nat) (i j : Instr) =>
      ∃ t u, exec i s = .next t ∧ exec j t = .next u ∧
        (∀ k, k < n → u.byteAt (ea + BitVec.ofNat 64 k) =
          BitVec.ofNat 8 ((s.reg rt).toNat / 256 ^ byteRank s.config n k)) ∧
        (∀ b : Addr, ¬WholeItem ea n b → u.byteAt b = s.byteAt b) ∧
        SameRegs s u [] ∧ SameHiLo s u ∧ SameLink s u ∧ SameRun s u
    (far = ea + 3 → Allowed s.config .store ea 4 →
      both 4 (.swl rt left base) (.swr rt right base) ∧ both 4 (.swr rt right base) (.swl rt left base)) ∧
    (far = ea + 7 → Has64 s.config → Allowed s.config .store ea 8 →
      both 8 (.sdl rt left base) (.sdr rt right base) ∧ both 8 (.sdr rt right base) (.sdl rt left base))

/-- A load that follows a store to the same address gives the low-order part stored, extended (20_memory.md R42, R55 (a)). -/
def Obligations.LoadAfterStore : Prop :=
  ∀ (s : State) (rt rd base : RegIdx) (offset : BitVec 16),
    let ea := effectiveAddr s offset base
    let v := s.reg rt
    let may := fun n => ea.toNat % n = 0 ∧ Allowed s.config .store ea n ∧ Allowed s.config .load ea n
    let gives := fun (i j : Instr) (x : DWord) => ∃ t, exec i s = .next t ∧ Writes j t rd x
    (may 1 → gives (.sb rt offset base) (.lb rd offset base) ((v.setWidth 8).signExtend 64)) ∧
    (may 2 → gives (.sh rt offset base) (.lhu rd offset base) (BitVec.ofNat 64 (v.toNat % 2 ^ 16))) ∧
    (may 4 → gives (.sw rt offset base) (.lw rd offset base) (sextWord (v.setWidth 32))) ∧
    (may 8 → Has64 s.config → gives (.sd rt offset base) (.ld rd offset base) v)

/-- Mixed widths: after a store of a word, a load of one of its bytes gives the byte of that rank
(20_memory.md R42, R44). -/
def Obligations.ByteOfStoredWord : Prop :=
  ∀ (s : State) (rt rd base : RegIdx) (offset near : BitVec 16) (k : Nat), k < 4 →
    let ea := effectiveAddr s offset base
    effectiveAddr s near base = ea + BitVec.ofNat 64 k → ea.toNat % 4 = 0 →
    Allowed s.config .store ea 4 → Allowed s.config .load ea 4 →
    ∃ t, exec (.sw rt offset base) s = .next t ∧
      Writes (.lbu rd near base) t rd (BitVec.ofNat 64 ((s.reg rt).toNat / 256 ^ byteRank s.config 4 k % 256))

/-- Memory, and the list of addresses the run has stored to, are changed by the stores and store conditionals alone
(20_memory.md R47, 42_load_store.md R160). -/
def Obligations.OnlyStoresChangeMemory : Prop :=
  ∀ (i : Instr) (s t : State), exec i s = .next t → t.mem ≠ s.mem ∨ t.stored ≠ s.stored →
    ∃ rt offset base, i = .sb rt offset base ∨ i = .sh rt offset base ∨ i = .sw rt offset base ∨
      i = .sd rt offset base ∨ i = .swl rt offset base ∨ i = .swr rt offset base ∨ i = .sdl rt offset base ∨
      i = .sdr rt offset base ∨ i = .sc rt offset base ∨ i = .scd rt offset base

/-! ### Load linked, store conditional, prefetch, synchronise -/

/-- LL and LLD load as LW and LD do, set `LLbit` and `LLaddr`, and begin a sequence in their block
(43_atomic_prefetch_sync.md R192, R193; what the model keeps of the sequence is log entries 10 and 11's). -/
def Obligations.LoadLinked : Prop :=
  ∀ (s : State) (rt base : RegIdx) (offset : BitVec 16),
    let ea := effectiveAddr s offset base
    (ea.toNat % 4 = 0 → Allowed s.config .load ea 4 →
      LoadsLinked (.ll rt offset base) s rt (sextWord (BitVec.ofNat 32 (memValue s ea 4))) .word ea) ∧
    (Has64 s.config → ea.toNat % 8 = 0 → Allowed s.config .load ea 8 →
      LoadsLinked (.lld rt offset base) s rt (BitVec.ofNat 64 (memValue s ea 8)) .doubleword ea)

/-- The sequence begun by the last load linked stays intact exactly as long as no load, store or PREF is executed and every
instruction lies in its block of 2048 bytes (43_atomic_prefetch_sync.md R191 (b); log entry 10). -/
def Obligations.LinkSequenceIntact : Prop :=
  ∀ (i : Instr) (s t : State), exec i s = .next t → t.exc = none →
    (∃ rt offset base, i = .ll rt offset base ∨ i = .lld rt offset base) ∨
      (t.llBlock = s.llBlock ∧
        (t.llIntact = true ↔ s.llIntact = true ∧ isAccess i = false ∧ s.pc.toNat / 2048 = s.llBlock.toNat))

/-- SC and SCD store or not and report which: never where they are paired with the last load linked and `LLbit` is 0
(43_atomic_prefetch_sync.md R191 (c), R194, R195, R196). What holds where they are not paired is log entry 9's, and the
strengthened policy log entry 10's. -/
def Obligations.StoreConditional : Prop :=
  ∀ (s : State) (rt base : RegIdx) (offset : BitVec 16),
    let ea := effectiveAddr s offset base
    (ea.toNat % 4 = 0 → Allowed s.config .store ea 4 →
      StoresConditionally (.sc rt offset base) s rt .word ea 4) ∧
    (Has64 s.config → ea.toNat % 8 = 0 → Allowed s.config .store ea 8 →
      StoresConditionally (.scd rt offset base) s rt .doubleword ea 8)

/-- PREF, whatever its hint and address, and SYNC change nothing (43_atomic_prefetch_sync.md R197, R198). -/
def Obligations.PrefetchAndSync : Prop :=
  ∀ (s : State) (hint : BitVec 5) (base : RegIdx) (offset : BitVec 16),
    (HasIV s.config → DoesNothing (.pref hint offset base) s) ∧ DoesNothing .sync s

/-- `LLbit` is changed by LL, LLD, SC and SCD alone, and `LLaddr` by LL and LLD alone (10_state.md R31, R32, R33; the events
of R191 (a) are another agent's, log entry 17). -/
def Obligations.OnlyTheseChangeTheLink : Prop :=
  ∀ (i : Instr) (s t : State), exec i s = .next t →
    (t.llBit ≠ s.llBit → ∃ rt offset base, i = .ll rt offset base ∨ i = .lld rt offset base ∨
      i = .sc rt offset base ∨ i = .scd rt offset base) ∧
    (t.llAddr ≠ s.llAddr → ∃ rt offset base, i = .ll rt offset base ∨ i = .lld rt offset base)

/-! ### Jumps and branches -/

/-- The four jumps, outside a delay slot: the target follows the delay slot; JAL writes the link to register 31, JALR to
`rd`; JR and JALR take all 64 bits of the register, read before the link is written (40_jump_branch.md R111, R112, R117 to
R120). -/
def Obligations.Jumps : Prop :=
  ∀ (s : State) (index : BitVec 26) (rd rs : RegIdx), s.inDelaySlot = false →
    JumpsTo (.j index) s [] (jumpToIndex s.pc index) ∧ JumpsTo (.jal index) s [31] (jumpToIndex s.pc index) ∧
    JumpsTo (.jr rs) s [] (s.reg rs) ∧ (rs ≠ rd → JumpsTo (.jalr rd rs) s [rd] (s.reg rs))

/-- The branches whose delay slot is executed in either case, outside a delay slot: all 64 bits are compared, and the two
linking ones write `pc + 8` to register 31 whether or not they are taken (40_jump_branch.md R110, R112, R116, R121 to R124,
R129, R130, R133, R134). -/
def Obligations.BranchesWithSlot : Prop :=
  ∀ (s : State) (rs rt : RegIdx) (offset : BitVec 16), s.inDelaySlot = false →
    let a := s.reg rs
    let target := branchTo s.pc offset
    Branches (.beq rs rt offset) s [] (a = s.reg rt) target ∧ Branches (.bne rs rt offset) s [] (a ≠ s.reg rt) target ∧
    Branches (.blez rs offset) s [] (a.toInt ≤ 0) target ∧ Branches (.bgtz rs offset) s [] (a.toInt > 0) target ∧
    Branches (.bltz rs offset) s [] (a.toInt < 0) target ∧ Branches (.bgez rs offset) s [] (a.toInt ≥ 0) target ∧
    (rs ≠ 31 →
      Branches (.bltzal rs offset) s [31] (a.toInt < 0) target ∧ Branches (.bgezal rs offset) s [31] (a.toInt ≥ 0) target)

/-- The eight branches likely, outside a delay slot: the delay slot is executed only if the branch is taken, and is
nullified if it is not (40_jump_branch.md R114). -/
def Obligations.LikelyBranches : Prop :=
  ∀ (s : State) (rs rt : RegIdx) (offset : BitVec 16), s.inDelaySlot = false →
    let a := s.reg rs
    let target := branchTo s.pc offset
    BranchesLikely (.beql rs rt offset) s [] (a = s.reg rt) target ∧
    BranchesLikely (.bnel rs rt offset) s [] (a ≠ s.reg rt) target ∧
    BranchesLikely (.blezl rs offset) s [] (a.toInt ≤ 0) target ∧
    BranchesLikely (.bgtzl rs offset) s [] (a.toInt > 0) target ∧
    BranchesLikely (.bltzl rs offset) s [] (a.toInt < 0) target ∧
    BranchesLikely (.bgezl rs offset) s [] (a.toInt ≥ 0) target ∧
    (rs ≠ 31 →
      BranchesLikely (.bltzall rs offset) s [31] (a.toInt < 0) target ∧
      BranchesLikely (.bgezall rs offset) s [31] (a.toInt ≥ 0) target)

/-- Each of the twenty jumps and branches is refused in a delay slot (40_jump_branch.md R113, D18). -/
def Obligations.BranchInDelaySlotRefused : Prop :=
  ∀ (s : State) (x : BitVec 26) (rd rs rt : RegIdx) (o : BitVec 16), s.inDelaySlot = true →
    let refused := fun i => exec i s = .refused .branchInDelaySlot
    refused (.j x) ∧ refused (.jal x) ∧ refused (.jr rs) ∧ refused (.jalr rd rs) ∧ refused (.beq rs rt o) ∧
    refused (.bne rs rt o) ∧ refused (.blez rs o) ∧ refused (.bgtz rs o) ∧ refused (.beql rs rt o) ∧
    refused (.bnel rs rt o) ∧ refused (.blezl rs o) ∧ refused (.bgtzl rs o) ∧ refused (.bltz rs o) ∧
    refused (.bgez rs o) ∧ refused (.bltzl rs o) ∧ refused (.bgezl rs o) ∧ refused (.bltzal rs o) ∧
    refused (.bgezal rs o) ∧ refused (.bltzall rs o) ∧ refused (.bgezall rs o)

/-- The undefined operand combinations are refused: JALR with `rs = rd`, and a linking branch that tests register 31
(40_jump_branch.md R120, R129 to R132, D18). That JALR with both registers 0 is refused too is the model's choice: R120 both
forbids `rs = rd` and allows `rd` = 0 (log entry 18). -/
def Obligations.UndefinedOperandsRefused : Prop :=
  ∀ (s : State) (r : RegIdx) (o : BitVec 16), s.inDelaySlot = false →
    exec (.jalr r r) s = .refused .jalrSameRegister ∧ exec (.bltzal 31 o) s = .refused .linkRegisterTested ∧
    exec (.bgezal 31 o) s = .refused .linkRegisterTested ∧ exec (.bltzall 31 o) s = .refused .linkRegisterTested ∧
    exec (.bgezall 31 o) s = .refused .linkRegisterTested

/-- Control goes on in a straight line after every instruction that completes, but for the twenty jumps and branches
(10_state.md R25, R26). -/
def Obligations.OnlyBranchesTransferControl : Prop :=
  ∀ (i : Instr) (s t : State), exec i s = .next t → s.exc = none → t.exc = none → ¬Continues s t →
    ∃ x rd rs rt o, i = .j x ∨ i = .jal x ∨ i = .jr rs ∨ i = .jalr rd rs ∨ i = .beq rs rt o ∨ i = .bne rs rt o ∨
      i = .blez rs o ∨ i = .bgtz rs o ∨ i = .beql rs rt o ∨ i = .bnel rs rt o ∨ i = .blezl rs o ∨ i = .bgtzl rs o ∨
      i = .bltz rs o ∨ i = .bgez rs o ∨ i = .bltzl rs o ∨ i = .bgezl rs o ∨ i = .bltzal rs o ∨ i = .bgezal rs o ∨
      i = .bltzall rs o ∨ i = .bgezall rs o

/-! ### The whole machine -/

/-- The parameters are fixed for the whole run (70_reset_and_hazards.md R341), and the count of draws never goes back. The
count is the model's own (log entry 6). -/
def Obligations.ParametersFixed : Prop :=
  ∀ s t : State, step s = .next t → t.config = s.config ∧ s.draws ≤ t.draws

/-- Every step keeps the invariant. -/
def Obligations.InvariantKept : Prop := ∀ s t : State, s.Inv → step s = .next t → t.Inv

/-- The invariant holds in every launch state, and the reset state is one (70_reset_and_hazards.md R341; the values the spec
leaves unspecified there are log entries 2 to 4's). -/
def Obligations.InvariantAtLaunch : Prop := (∀ s : State, s.IsLaunch → s.Inv) ∧ State.reset.IsLaunch
end

