-- ==== Sys2Proof/Laws/State.lean ====
section
/-! SUPPORT. What each update of the state does to each field: one lemma per field per update, so that no later proof
unfolds an update. -/

namespace Sys2Proof.Machine

/-! ### After a register write -/

@[simp] theorem State.setReg_gpr (s : State) (i : RegIdx) (v : DWord) : (s.setReg i v).gpr =
    if i = 0 then s.gpr else s.gpr.set i.toNat v i.isLt := rfl
@[simp] theorem State.setReg_hi (s : State) (i : RegIdx) (v : DWord) : (s.setReg i v).hi = s.hi := rfl
@[simp] theorem State.setReg_lo (s : State) (i : RegIdx) (v : DWord) : (s.setReg i v).lo = s.lo := rfl
@[simp] theorem State.setReg_pc (s : State) (i : RegIdx) (v : DWord) : (s.setReg i v).pc = s.pc := rfl
@[simp] theorem State.setReg_npc (s : State) (i : RegIdx) (v : DWord) : (s.setReg i v).npc = s.npc := rfl
@[simp] theorem State.setReg_inDelaySlot (s : State) (i : RegIdx) (v : DWord) : (s.setReg i v).inDelaySlot =
    s.inDelaySlot := rfl
@[simp] theorem State.setReg_llBit (s : State) (i : RegIdx) (v : DWord) : (s.setReg i v).llBit = s.llBit := rfl
@[simp] theorem State.setReg_llAddr (s : State) (i : RegIdx) (v : DWord) : (s.setReg i v).llAddr = s.llAddr := rfl
@[simp] theorem State.setReg_llWidth (s : State) (i : RegIdx) (v : DWord) : (s.setReg i v).llWidth = s.llWidth := rfl
@[simp] theorem State.setReg_llIntact (s : State) (i : RegIdx) (v : DWord) : (s.setReg i v).llIntact = s.llIntact := rfl
@[simp] theorem State.setReg_llBlock (s : State) (i : RegIdx) (v : DWord) : (s.setReg i v).llBlock = s.llBlock := rfl
@[simp] theorem State.setReg_hiGuard (s : State) (i : RegIdx) (v : DWord) : (s.setReg i v).hiGuard = s.hiGuard := rfl
@[simp] theorem State.setReg_loGuard (s : State) (i : RegIdx) (v : DWord) : (s.setReg i v).loGuard = s.loGuard := rfl
@[simp] theorem State.setReg_hiReads (s : State) (i : RegIdx) (v : DWord) : (s.setReg i v).hiReads =
    s.hiReads.forget i := rfl
@[simp] theorem State.setReg_loReads (s : State) (i : RegIdx) (v : DWord) : (s.setReg i v).loReads =
    s.loReads.forget i := rfl
@[simp] theorem State.setReg_hiloUnread (s : State) (i : RegIdx) (v : DWord) : (s.setReg i v).hiloUnread =
    s.hiloUnread := rfl
@[simp] theorem State.setReg_mem (s : State) (i : RegIdx) (v : DWord) : (s.setReg i v).mem = s.mem := rfl
@[simp] theorem State.setReg_stored (s : State) (i : RegIdx) (v : DWord) : (s.setReg i v).stored = s.stored := rfl
@[simp] theorem State.setReg_exc (s : State) (i : RegIdx) (v : DWord) : (s.setReg i v).exc = s.exc := rfl
@[simp] theorem State.setReg_draws (s : State) (i : RegIdx) (v : DWord) : (s.setReg i v).draws = s.draws := rfl
@[simp] theorem State.setReg_config (s : State) (i : RegIdx) (v : DWord) : (s.setReg i v).config = s.config := rfl
@[simp] theorem State.setReg_byteAt (s : State) (i : RegIdx) (v : DWord) (a : Addr) : (s.setReg i v).byteAt a = s.byteAt a := rfl

/-! ### After a draw -/

@[simp] theorem State.drawn_gpr (s : State) : (s.drawn).gpr = s.gpr := rfl
@[simp] theorem State.drawn_hi (s : State) : (s.drawn).hi = s.hi := rfl
@[simp] theorem State.drawn_lo (s : State) : (s.drawn).lo = s.lo := rfl
@[simp] theorem State.drawn_pc (s : State) : (s.drawn).pc = s.pc := rfl
@[simp] theorem State.drawn_npc (s : State) : (s.drawn).npc = s.npc := rfl
@[simp] theorem State.drawn_inDelaySlot (s : State) : (s.drawn).inDelaySlot = s.inDelaySlot := rfl
@[simp] theorem State.drawn_llBit (s : State) : (s.drawn).llBit = s.llBit := rfl
@[simp] theorem State.drawn_llAddr (s : State) : (s.drawn).llAddr = s.llAddr := rfl
@[simp] theorem State.drawn_llWidth (s : State) : (s.drawn).llWidth = s.llWidth := rfl
@[simp] theorem State.drawn_llIntact (s : State) : (s.drawn).llIntact = s.llIntact := rfl
@[simp] theorem State.drawn_llBlock (s : State) : (s.drawn).llBlock = s.llBlock := rfl
@[simp] theorem State.drawn_hiGuard (s : State) : (s.drawn).hiGuard = s.hiGuard := rfl
@[simp] theorem State.drawn_loGuard (s : State) : (s.drawn).loGuard = s.loGuard := rfl
@[simp] theorem State.drawn_hiReads (s : State) : (s.drawn).hiReads = s.hiReads := rfl
@[simp] theorem State.drawn_loReads (s : State) : (s.drawn).loReads = s.loReads := rfl
@[simp] theorem State.drawn_hiloUnread (s : State) : (s.drawn).hiloUnread = s.hiloUnread := rfl
@[simp] theorem State.drawn_mem (s : State) : (s.drawn).mem = s.mem := rfl
@[simp] theorem State.drawn_stored (s : State) : (s.drawn).stored = s.stored := rfl
@[simp] theorem State.drawn_exc (s : State) : (s.drawn).exc = s.exc := rfl
@[simp] theorem State.drawn_draws (s : State) : (s.drawn).draws = s.draws + 1 := rfl
@[simp] theorem State.drawn_config (s : State) : (s.drawn).config = s.config := rfl
@[simp] theorem State.drawn_reg (s : State) (r : RegIdx) : (s.drawn).reg r = s.reg r := rfl
@[simp] theorem State.drawn_byteAt (s : State) (a : Addr) : (s.drawn).byteAt a = s.byteAt a := rfl

/-! ### After a data access -/

@[simp] theorem State.accessed_gpr (s : State) : (s.accessed).gpr = s.gpr := rfl
@[simp] theorem State.accessed_hi (s : State) : (s.accessed).hi = s.hi := rfl
@[simp] theorem State.accessed_lo (s : State) : (s.accessed).lo = s.lo := rfl
@[simp] theorem State.accessed_pc (s : State) : (s.accessed).pc = s.pc := rfl
@[simp] theorem State.accessed_npc (s : State) : (s.accessed).npc = s.npc := rfl
@[simp] theorem State.accessed_inDelaySlot (s : State) : (s.accessed).inDelaySlot = s.inDelaySlot := rfl
@[simp] theorem State.accessed_llBit (s : State) : (s.accessed).llBit = s.llBit := rfl
@[simp] theorem State.accessed_llAddr (s : State) : (s.accessed).llAddr = s.llAddr := rfl
@[simp] theorem State.accessed_llWidth (s : State) : (s.accessed).llWidth = s.llWidth := rfl
@[simp] theorem State.accessed_llIntact (s : State) : (s.accessed).llIntact = false := rfl
@[simp] theorem State.accessed_llBlock (s : State) : (s.accessed).llBlock = s.llBlock := rfl
@[simp] theorem State.accessed_hiGuard (s : State) : (s.accessed).hiGuard = s.hiGuard := rfl
@[simp] theorem State.accessed_loGuard (s : State) : (s.accessed).loGuard = s.loGuard := rfl
@[simp] theorem State.accessed_hiReads (s : State) : (s.accessed).hiReads = s.hiReads := rfl
@[simp] theorem State.accessed_loReads (s : State) : (s.accessed).loReads = s.loReads := rfl
@[simp] theorem State.accessed_hiloUnread (s : State) : (s.accessed).hiloUnread = s.hiloUnread := rfl
@[simp] theorem State.accessed_mem (s : State) : (s.accessed).mem = s.mem := rfl
@[simp] theorem State.accessed_stored (s : State) : (s.accessed).stored = s.stored := rfl
@[simp] theorem State.accessed_exc (s : State) : (s.accessed).exc = s.exc := rfl
@[simp] theorem State.accessed_draws (s : State) : (s.accessed).draws = s.draws := rfl
@[simp] theorem State.accessed_config (s : State) : (s.accessed).config = s.config := rfl
@[simp] theorem State.accessed_reg (s : State) (r : RegIdx) : (s.accessed).reg r = s.reg r := rfl
@[simp] theorem State.accessed_byteAt (s : State) (a : Addr) : (s.accessed).byteAt a = s.byteAt a := rfl

/-! ### After a stop at an exception -/

@[simp] theorem State.stopAt_gpr (s : State) (e : Exception) : (s.stopAt e).gpr = s.gpr := rfl
@[simp] theorem State.stopAt_hi (s : State) (e : Exception) : (s.stopAt e).hi = s.hi := rfl
@[simp] theorem State.stopAt_lo (s : State) (e : Exception) : (s.stopAt e).lo = s.lo := rfl
@[simp] theorem State.stopAt_pc (s : State) (e : Exception) : (s.stopAt e).pc = s.pc := rfl
@[simp] theorem State.stopAt_npc (s : State) (e : Exception) : (s.stopAt e).npc = s.npc := rfl
@[simp] theorem State.stopAt_inDelaySlot (s : State) (e : Exception) : (s.stopAt e).inDelaySlot = s.inDelaySlot := rfl
@[simp] theorem State.stopAt_llBit (s : State) (e : Exception) : (s.stopAt e).llBit = s.llBit := rfl
@[simp] theorem State.stopAt_llAddr (s : State) (e : Exception) : (s.stopAt e).llAddr = s.llAddr := rfl
@[simp] theorem State.stopAt_llWidth (s : State) (e : Exception) : (s.stopAt e).llWidth = s.llWidth := rfl
@[simp] theorem State.stopAt_llIntact (s : State) (e : Exception) : (s.stopAt e).llIntact = s.llIntact := rfl
@[simp] theorem State.stopAt_llBlock (s : State) (e : Exception) : (s.stopAt e).llBlock = s.llBlock := rfl
@[simp] theorem State.stopAt_hiGuard (s : State) (e : Exception) : (s.stopAt e).hiGuard = s.hiGuard := rfl
@[simp] theorem State.stopAt_loGuard (s : State) (e : Exception) : (s.stopAt e).loGuard = s.loGuard := rfl
@[simp] theorem State.stopAt_hiReads (s : State) (e : Exception) : (s.stopAt e).hiReads = s.hiReads := rfl
@[simp] theorem State.stopAt_loReads (s : State) (e : Exception) : (s.stopAt e).loReads = s.loReads := rfl
@[simp] theorem State.stopAt_hiloUnread (s : State) (e : Exception) : (s.stopAt e).hiloUnread = s.hiloUnread := rfl
@[simp] theorem State.stopAt_mem (s : State) (e : Exception) : (s.stopAt e).mem = s.mem := rfl
@[simp] theorem State.stopAt_stored (s : State) (e : Exception) : (s.stopAt e).stored = s.stored := rfl
@[simp] theorem State.stopAt_exc (s : State) (e : Exception) : (s.stopAt e).exc = some (s.recordOf e) := rfl
@[simp] theorem State.stopAt_draws (s : State) (e : Exception) : (s.stopAt e).draws = s.draws := rfl
@[simp] theorem State.stopAt_config (s : State) (e : Exception) : (s.stopAt e).config = s.config := rfl
@[simp] theorem State.stopAt_reg (s : State) (e : Exception) (r : RegIdx) : (s.stopAt e).reg r = s.reg r := rfl
@[simp] theorem State.stopAt_byteAt (s : State) (e : Exception) (a : Addr) : (s.stopAt e).byteAt a = s.byteAt a := rfl

/-! ### After the end of an instruction -/

@[simp] theorem State.retire_gpr (s : State) (f : Flow) : (s.retire f).gpr = s.gpr := rfl
@[simp] theorem State.retire_hi (s : State) (f : Flow) : (s.retire f).hi = s.hi := rfl
@[simp] theorem State.retire_lo (s : State) (f : Flow) : (s.retire f).lo = s.lo := rfl
@[simp] theorem State.retire_pc (s : State) (f : Flow) : (s.retire f).pc = f.pcAfter s.npc := rfl
@[simp] theorem State.retire_npc (s : State) (f : Flow) : (s.retire f).npc = f.npcAfter s.npc := rfl
@[simp] theorem State.retire_inDelaySlot (s : State) (f : Flow) : (s.retire f).inDelaySlot = f.slotAfter := rfl
@[simp] theorem State.retire_llBit (s : State) (f : Flow) : (s.retire f).llBit = s.llBit := rfl
@[simp] theorem State.retire_llAddr (s : State) (f : Flow) : (s.retire f).llAddr = s.llAddr := rfl
@[simp] theorem State.retire_llWidth (s : State) (f : Flow) : (s.retire f).llWidth = s.llWidth := rfl
@[simp] theorem State.retire_llIntact (s : State) (f : Flow) : (s.retire f).llIntact =
    (s.llIntact && decide (blockOf s.pc = s.llBlock)) := rfl
@[simp] theorem State.retire_llBlock (s : State) (f : Flow) : (s.retire f).llBlock = s.llBlock := rfl
@[simp] theorem State.retire_hiGuard (s : State) (f : Flow) : (s.retire f).hiGuard = guardStep s.hiGuard := rfl
@[simp] theorem State.retire_loGuard (s : State) (f : Flow) : (s.retire f).loGuard = guardStep s.loGuard := rfl
@[simp] theorem State.retire_hiReads (s : State) (f : Flow) : (s.retire f).hiReads = s.hiReads.shift := rfl
@[simp] theorem State.retire_loReads (s : State) (f : Flow) : (s.retire f).loReads = s.loReads.shift := rfl
@[simp] theorem State.retire_hiloUnread (s : State) (f : Flow) : (s.retire f).hiloUnread = s.hiloUnread := rfl
@[simp] theorem State.retire_mem (s : State) (f : Flow) : (s.retire f).mem = s.mem := rfl
@[simp] theorem State.retire_stored (s : State) (f : Flow) : (s.retire f).stored = s.stored := rfl
@[simp] theorem State.retire_exc (s : State) (f : Flow) : (s.retire f).exc = s.exc := rfl
@[simp] theorem State.retire_draws (s : State) (f : Flow) : (s.retire f).draws = s.draws := rfl
@[simp] theorem State.retire_config (s : State) (f : Flow) : (s.retire f).config = s.config := rfl
@[simp] theorem State.retire_reg (s : State) (f : Flow) (r : RegIdx) : (s.retire f).reg r = s.reg r := rfl
@[simp] theorem State.retire_byteAt (s : State) (f : Flow) (a : Addr) : (s.retire f).byteAt a = s.byteAt a := rfl

/-! ### After the store of a byte -/

@[simp] theorem State.storeByte_gpr (s : State) (a : Addr) (b : Byte) : (s.storeByte a b).gpr = s.gpr := rfl
@[simp] theorem State.storeByte_hi (s : State) (a : Addr) (b : Byte) : (s.storeByte a b).hi = s.hi := rfl
@[simp] theorem State.storeByte_lo (s : State) (a : Addr) (b : Byte) : (s.storeByte a b).lo = s.lo := rfl
@[simp] theorem State.storeByte_pc (s : State) (a : Addr) (b : Byte) : (s.storeByte a b).pc = s.pc := rfl
@[simp] theorem State.storeByte_npc (s : State) (a : Addr) (b : Byte) : (s.storeByte a b).npc = s.npc := rfl
@[simp] theorem State.storeByte_inDelaySlot (s : State) (a : Addr) (b : Byte) : (s.storeByte a b).inDelaySlot =
    s.inDelaySlot := rfl
@[simp] theorem State.storeByte_llBit (s : State) (a : Addr) (b : Byte) : (s.storeByte a b).llBit = s.llBit := rfl
@[simp] theorem State.storeByte_llAddr (s : State) (a : Addr) (b : Byte) : (s.storeByte a b).llAddr = s.llAddr := rfl
@[simp] theorem State.storeByte_llWidth (s : State) (a : Addr) (b : Byte) : (s.storeByte a b).llWidth = s.llWidth := rfl
@[simp] theorem State.storeByte_llIntact (s : State) (a : Addr) (b : Byte) : (s.storeByte a b).llIntact = s.llIntact := rfl
@[simp] theorem State.storeByte_llBlock (s : State) (a : Addr) (b : Byte) : (s.storeByte a b).llBlock = s.llBlock := rfl
@[simp] theorem State.storeByte_hiGuard (s : State) (a : Addr) (b : Byte) : (s.storeByte a b).hiGuard = s.hiGuard := rfl
@[simp] theorem State.storeByte_loGuard (s : State) (a : Addr) (b : Byte) : (s.storeByte a b).loGuard = s.loGuard := rfl
@[simp] theorem State.storeByte_hiReads (s : State) (a : Addr) (b : Byte) : (s.storeByte a b).hiReads = s.hiReads := rfl
@[simp] theorem State.storeByte_loReads (s : State) (a : Addr) (b : Byte) : (s.storeByte a b).loReads = s.loReads := rfl
@[simp] theorem State.storeByte_hiloUnread (s : State) (a : Addr) (b : Byte) : (s.storeByte a b).hiloUnread =
    s.hiloUnread := rfl
@[simp] theorem State.storeByte_mem (s : State) (a : Addr) (b : Byte) : (s.storeByte a b).mem =
    Memory.insert s.mem a.toNat b := rfl
@[simp] theorem State.storeByte_stored (s : State) (a : Addr) (b : Byte) : (s.storeByte a b).stored =
    insertAddr s.stored a.toNat := rfl
@[simp] theorem State.storeByte_exc (s : State) (a : Addr) (b : Byte) : (s.storeByte a b).exc = s.exc := rfl
@[simp] theorem State.storeByte_draws (s : State) (a : Addr) (b : Byte) : (s.storeByte a b).draws = s.draws := rfl
@[simp] theorem State.storeByte_config (s : State) (a : Addr) (b : Byte) : (s.storeByte a b).config = s.config := rfl
@[simp] theorem State.storeByte_reg (s : State) (a : Addr) (b : Byte) (r : RegIdx) : (s.storeByte a b).reg r = s.reg r := rfl

/-! ### After the placing of a byte -/

@[simp] theorem State.placeByte_gpr (s : State) (a : Addr) (b : Byte) : (s.placeByte a b).gpr = s.gpr := rfl
@[simp] theorem State.placeByte_hi (s : State) (a : Addr) (b : Byte) : (s.placeByte a b).hi = s.hi := rfl
@[simp] theorem State.placeByte_lo (s : State) (a : Addr) (b : Byte) : (s.placeByte a b).lo = s.lo := rfl
@[simp] theorem State.placeByte_pc (s : State) (a : Addr) (b : Byte) : (s.placeByte a b).pc = s.pc := rfl
@[simp] theorem State.placeByte_npc (s : State) (a : Addr) (b : Byte) : (s.placeByte a b).npc = s.npc := rfl
@[simp] theorem State.placeByte_inDelaySlot (s : State) (a : Addr) (b : Byte) : (s.placeByte a b).inDelaySlot =
    s.inDelaySlot := rfl
@[simp] theorem State.placeByte_llBit (s : State) (a : Addr) (b : Byte) : (s.placeByte a b).llBit = s.llBit := rfl
@[simp] theorem State.placeByte_llAddr (s : State) (a : Addr) (b : Byte) : (s.placeByte a b).llAddr = s.llAddr := rfl
@[simp] theorem State.placeByte_llWidth (s : State) (a : Addr) (b : Byte) : (s.placeByte a b).llWidth = s.llWidth := rfl
@[simp] theorem State.placeByte_llIntact (s : State) (a : Addr) (b : Byte) : (s.placeByte a b).llIntact = s.llIntact := rfl
@[simp] theorem State.placeByte_llBlock (s : State) (a : Addr) (b : Byte) : (s.placeByte a b).llBlock = s.llBlock := rfl
@[simp] theorem State.placeByte_hiGuard (s : State) (a : Addr) (b : Byte) : (s.placeByte a b).hiGuard = s.hiGuard := rfl
@[simp] theorem State.placeByte_loGuard (s : State) (a : Addr) (b : Byte) : (s.placeByte a b).loGuard = s.loGuard := rfl
@[simp] theorem State.placeByte_hiReads (s : State) (a : Addr) (b : Byte) : (s.placeByte a b).hiReads = s.hiReads := rfl
@[simp] theorem State.placeByte_loReads (s : State) (a : Addr) (b : Byte) : (s.placeByte a b).loReads = s.loReads := rfl
@[simp] theorem State.placeByte_hiloUnread (s : State) (a : Addr) (b : Byte) : (s.placeByte a b).hiloUnread =
    s.hiloUnread := rfl
@[simp] theorem State.placeByte_mem (s : State) (a : Addr) (b : Byte) : (s.placeByte a b).mem =
    Memory.insert s.mem a.toNat b := rfl
@[simp] theorem State.placeByte_stored (s : State) (a : Addr) (b : Byte) : (s.placeByte a b).stored =
    s.stored.filter (fun k => decide (k ≠ a.toNat)) := rfl
@[simp] theorem State.placeByte_exc (s : State) (a : Addr) (b : Byte) : (s.placeByte a b).exc = s.exc := rfl
@[simp] theorem State.placeByte_draws (s : State) (a : Addr) (b : Byte) : (s.placeByte a b).draws = s.draws := rfl
@[simp] theorem State.placeByte_config (s : State) (a : Addr) (b : Byte) : (s.placeByte a b).config = s.config := rfl
@[simp] theorem State.placeByte_reg (s : State) (a : Addr) (b : Byte) (r : RegIdx) : (s.placeByte a b).reg r = s.reg r := rfl

/-! ### After the end of MFHI -/

@[simp] theorem State.guardHiRead_gpr (s : State) (rd : RegIdx) : (s.guardHiRead rd).gpr = s.gpr := rfl
@[simp] theorem State.guardHiRead_hi (s : State) (rd : RegIdx) : (s.guardHiRead rd).hi = s.hi := rfl
@[simp] theorem State.guardHiRead_lo (s : State) (rd : RegIdx) : (s.guardHiRead rd).lo = s.lo := rfl
@[simp] theorem State.guardHiRead_pc (s : State) (rd : RegIdx) : (s.guardHiRead rd).pc = s.pc := rfl
@[simp] theorem State.guardHiRead_npc (s : State) (rd : RegIdx) : (s.guardHiRead rd).npc = s.npc := rfl
@[simp] theorem State.guardHiRead_inDelaySlot (s : State) (rd : RegIdx) : (s.guardHiRead rd).inDelaySlot =
    s.inDelaySlot := rfl
@[simp] theorem State.guardHiRead_llBit (s : State) (rd : RegIdx) : (s.guardHiRead rd).llBit = s.llBit := rfl
@[simp] theorem State.guardHiRead_llAddr (s : State) (rd : RegIdx) : (s.guardHiRead rd).llAddr = s.llAddr := rfl
@[simp] theorem State.guardHiRead_llWidth (s : State) (rd : RegIdx) : (s.guardHiRead rd).llWidth = s.llWidth := rfl
@[simp] theorem State.guardHiRead_llIntact (s : State) (rd : RegIdx) : (s.guardHiRead rd).llIntact = s.llIntact := rfl
@[simp] theorem State.guardHiRead_llBlock (s : State) (rd : RegIdx) : (s.guardHiRead rd).llBlock = s.llBlock := rfl
@[simp] theorem State.guardHiRead_hiGuard (s : State) (rd : RegIdx) : (s.guardHiRead rd).hiGuard = 2 := rfl
@[simp] theorem State.guardHiRead_loGuard (s : State) (rd : RegIdx) : (s.guardHiRead rd).loGuard = s.loGuard := rfl
@[simp] theorem State.guardHiRead_hiReads (s : State) (rd : RegIdx) : (s.guardHiRead rd).hiReads =
    { s.hiReads with last := if rd = 0 then none else some rd } := rfl
@[simp] theorem State.guardHiRead_loReads (s : State) (rd : RegIdx) : (s.guardHiRead rd).loReads = s.loReads := rfl
@[simp] theorem State.guardHiRead_hiloUnread (s : State) (rd : RegIdx) : (s.guardHiRead rd).hiloUnread =
    s.hiloUnread := rfl
@[simp] theorem State.guardHiRead_mem (s : State) (rd : RegIdx) : (s.guardHiRead rd).mem = s.mem := rfl
@[simp] theorem State.guardHiRead_stored (s : State) (rd : RegIdx) : (s.guardHiRead rd).stored = s.stored := rfl
@[simp] theorem State.guardHiRead_exc (s : State) (rd : RegIdx) : (s.guardHiRead rd).exc = s.exc := rfl
@[simp] theorem State.guardHiRead_draws (s : State) (rd : RegIdx) : (s.guardHiRead rd).draws = s.draws := rfl
@[simp] theorem State.guardHiRead_config (s : State) (rd : RegIdx) : (s.guardHiRead rd).config = s.config := rfl
@[simp] theorem State.guardHiRead_reg (s : State) (rd : RegIdx) (r : RegIdx) : (s.guardHiRead rd).reg r = s.reg r := rfl
@[simp] theorem State.guardHiRead_byteAt (s : State) (rd : RegIdx) (a : Addr) : (s.guardHiRead rd).byteAt a = s.byteAt a := rfl

/-! ### After the end of MFLO -/

@[simp] theorem State.guardLoRead_gpr (s : State) (rd : RegIdx) : (s.guardLoRead rd).gpr = s.gpr := rfl
@[simp] theorem State.guardLoRead_hi (s : State) (rd : RegIdx) : (s.guardLoRead rd).hi = s.hi := rfl
@[simp] theorem State.guardLoRead_lo (s : State) (rd : RegIdx) : (s.guardLoRead rd).lo = s.lo := rfl
@[simp] theorem State.guardLoRead_pc (s : State) (rd : RegIdx) : (s.guardLoRead rd).pc = s.pc := rfl
@[simp] theorem State.guardLoRead_npc (s : State) (rd : RegIdx) : (s.guardLoRead rd).npc = s.npc := rfl
@[simp] theorem State.guardLoRead_inDelaySlot (s : State) (rd : RegIdx) : (s.guardLoRead rd).inDelaySlot =
    s.inDelaySlot := rfl
@[simp] theorem State.guardLoRead_llBit (s : State) (rd : RegIdx) : (s.guardLoRead rd).llBit = s.llBit := rfl
@[simp] theorem State.guardLoRead_llAddr (s : State) (rd : RegIdx) : (s.guardLoRead rd).llAddr = s.llAddr := rfl
@[simp] theorem State.guardLoRead_llWidth (s : State) (rd : RegIdx) : (s.guardLoRead rd).llWidth = s.llWidth := rfl
@[simp] theorem State.guardLoRead_llIntact (s : State) (rd : RegIdx) : (s.guardLoRead rd).llIntact = s.llIntact := rfl
@[simp] theorem State.guardLoRead_llBlock (s : State) (rd : RegIdx) : (s.guardLoRead rd).llBlock = s.llBlock := rfl
@[simp] theorem State.guardLoRead_hiGuard (s : State) (rd : RegIdx) : (s.guardLoRead rd).hiGuard = s.hiGuard := rfl
@[simp] theorem State.guardLoRead_loGuard (s : State) (rd : RegIdx) : (s.guardLoRead rd).loGuard = 2 := rfl
@[simp] theorem State.guardLoRead_hiReads (s : State) (rd : RegIdx) : (s.guardLoRead rd).hiReads = s.hiReads := rfl
@[simp] theorem State.guardLoRead_loReads (s : State) (rd : RegIdx) : (s.guardLoRead rd).loReads =
    { s.loReads with last := if rd = 0 then none else some rd } := rfl
@[simp] theorem State.guardLoRead_hiloUnread (s : State) (rd : RegIdx) : (s.guardLoRead rd).hiloUnread =
    s.hiloUnread := rfl
@[simp] theorem State.guardLoRead_mem (s : State) (rd : RegIdx) : (s.guardLoRead rd).mem = s.mem := rfl
@[simp] theorem State.guardLoRead_stored (s : State) (rd : RegIdx) : (s.guardLoRead rd).stored = s.stored := rfl
@[simp] theorem State.guardLoRead_exc (s : State) (rd : RegIdx) : (s.guardLoRead rd).exc = s.exc := rfl
@[simp] theorem State.guardLoRead_draws (s : State) (rd : RegIdx) : (s.guardLoRead rd).draws = s.draws := rfl
@[simp] theorem State.guardLoRead_config (s : State) (rd : RegIdx) : (s.guardLoRead rd).config = s.config := rfl
@[simp] theorem State.guardLoRead_reg (s : State) (rd : RegIdx) (r : RegIdx) : (s.guardLoRead rd).reg r = s.reg r := rfl
@[simp] theorem State.guardLoRead_byteAt (s : State) (rd : RegIdx) (a : Addr) : (s.guardLoRead rd).byteAt a = s.byteAt a := rfl

/-! ### After a multiply or divide -/

@[simp] theorem State.withHiLo_gpr (s : State) (hi lo : DWord) : (s.withHiLo hi lo).gpr = s.gpr := rfl
@[simp] theorem State.withHiLo_hi (s : State) (hi lo : DWord) : (s.withHiLo hi lo).hi = hi := rfl
@[simp] theorem State.withHiLo_lo (s : State) (hi lo : DWord) : (s.withHiLo hi lo).lo = lo := rfl
@[simp] theorem State.withHiLo_pc (s : State) (hi lo : DWord) : (s.withHiLo hi lo).pc = s.pc := rfl
@[simp] theorem State.withHiLo_npc (s : State) (hi lo : DWord) : (s.withHiLo hi lo).npc = s.npc := rfl
@[simp] theorem State.withHiLo_inDelaySlot (s : State) (hi lo : DWord) : (s.withHiLo hi lo).inDelaySlot = s.inDelaySlot := rfl
@[simp] theorem State.withHiLo_llBit (s : State) (hi lo : DWord) : (s.withHiLo hi lo).llBit = s.llBit := rfl
@[simp] theorem State.withHiLo_llAddr (s : State) (hi lo : DWord) : (s.withHiLo hi lo).llAddr = s.llAddr := rfl
@[simp] theorem State.withHiLo_llWidth (s : State) (hi lo : DWord) : (s.withHiLo hi lo).llWidth = s.llWidth := rfl
@[simp] theorem State.withHiLo_llIntact (s : State) (hi lo : DWord) : (s.withHiLo hi lo).llIntact = s.llIntact := rfl
@[simp] theorem State.withHiLo_llBlock (s : State) (hi lo : DWord) : (s.withHiLo hi lo).llBlock = s.llBlock := rfl
@[simp] theorem State.withHiLo_hiGuard (s : State) (hi lo : DWord) : (s.withHiLo hi lo).hiGuard = s.hiGuard := rfl
@[simp] theorem State.withHiLo_loGuard (s : State) (hi lo : DWord) : (s.withHiLo hi lo).loGuard = s.loGuard := rfl
@[simp] theorem State.withHiLo_hiReads (s : State) (hi lo : DWord) : (s.withHiLo hi lo).hiReads = s.hiReads := rfl
@[simp] theorem State.withHiLo_loReads (s : State) (hi lo : DWord) : (s.withHiLo hi lo).loReads = s.loReads := rfl
@[simp] theorem State.withHiLo_hiloUnread (s : State) (hi lo : DWord) : (s.withHiLo hi lo).hiloUnread = true := rfl
@[simp] theorem State.withHiLo_mem (s : State) (hi lo : DWord) : (s.withHiLo hi lo).mem = s.mem := rfl
@[simp] theorem State.withHiLo_stored (s : State) (hi lo : DWord) : (s.withHiLo hi lo).stored = s.stored := rfl
@[simp] theorem State.withHiLo_exc (s : State) (hi lo : DWord) : (s.withHiLo hi lo).exc = s.exc := rfl
@[simp] theorem State.withHiLo_draws (s : State) (hi lo : DWord) : (s.withHiLo hi lo).draws = s.draws := rfl
@[simp] theorem State.withHiLo_config (s : State) (hi lo : DWord) : (s.withHiLo hi lo).config = s.config := rfl
@[simp] theorem State.withHiLo_reg (s : State) (hi lo : DWord) (r : RegIdx) : (s.withHiLo hi lo).reg r = s.reg r := rfl
@[simp] theorem State.withHiLo_byteAt (s : State) (hi lo : DWord) (a : Addr) : (s.withHiLo hi lo).byteAt a = s.byteAt a := rfl

/-! ### After a write of HI -/

@[simp] theorem State.withHi_gpr (s : State) (v : DWord) : (s.withHi v).gpr = s.gpr := rfl
@[simp] theorem State.withHi_hi (s : State) (v : DWord) : (s.withHi v).hi = v := rfl
@[simp] theorem State.withHi_lo (s : State) (v : DWord) : (s.withHi v).lo = s.lo := rfl
@[simp] theorem State.withHi_pc (s : State) (v : DWord) : (s.withHi v).pc = s.pc := rfl
@[simp] theorem State.withHi_npc (s : State) (v : DWord) : (s.withHi v).npc = s.npc := rfl
@[simp] theorem State.withHi_inDelaySlot (s : State) (v : DWord) : (s.withHi v).inDelaySlot = s.inDelaySlot := rfl
@[simp] theorem State.withHi_llBit (s : State) (v : DWord) : (s.withHi v).llBit = s.llBit := rfl
@[simp] theorem State.withHi_llAddr (s : State) (v : DWord) : (s.withHi v).llAddr = s.llAddr := rfl
@[simp] theorem State.withHi_llWidth (s : State) (v : DWord) : (s.withHi v).llWidth = s.llWidth := rfl
@[simp] theorem State.withHi_llIntact (s : State) (v : DWord) : (s.withHi v).llIntact = s.llIntact := rfl
@[simp] theorem State.withHi_llBlock (s : State) (v : DWord) : (s.withHi v).llBlock = s.llBlock := rfl
@[simp] theorem State.withHi_hiGuard (s : State) (v : DWord) : (s.withHi v).hiGuard = s.hiGuard := rfl
@[simp] theorem State.withHi_loGuard (s : State) (v : DWord) : (s.withHi v).loGuard = s.loGuard := rfl
@[simp] theorem State.withHi_hiReads (s : State) (v : DWord) : (s.withHi v).hiReads = s.hiReads := rfl
@[simp] theorem State.withHi_loReads (s : State) (v : DWord) : (s.withHi v).loReads = s.loReads := rfl
@[simp] theorem State.withHi_hiloUnread (s : State) (v : DWord) : (s.withHi v).hiloUnread = s.hiloUnread := rfl
@[simp] theorem State.withHi_mem (s : State) (v : DWord) : (s.withHi v).mem = s.mem := rfl
@[simp] theorem State.withHi_stored (s : State) (v : DWord) : (s.withHi v).stored = s.stored := rfl
@[simp] theorem State.withHi_exc (s : State) (v : DWord) : (s.withHi v).exc = s.exc := rfl
@[simp] theorem State.withHi_draws (s : State) (v : DWord) : (s.withHi v).draws = s.draws := rfl
@[simp] theorem State.withHi_config (s : State) (v : DWord) : (s.withHi v).config = s.config := rfl
@[simp] theorem State.withHi_reg (s : State) (v : DWord) (r : RegIdx) : (s.withHi v).reg r = s.reg r := rfl
@[simp] theorem State.withHi_byteAt (s : State) (v : DWord) (a : Addr) : (s.withHi v).byteAt a = s.byteAt a := rfl

/-! ### After a write of LO -/

@[simp] theorem State.withLo_gpr (s : State) (v : DWord) : (s.withLo v).gpr = s.gpr := rfl
@[simp] theorem State.withLo_hi (s : State) (v : DWord) : (s.withLo v).hi = s.hi := rfl
@[simp] theorem State.withLo_lo (s : State) (v : DWord) : (s.withLo v).lo = v := rfl
@[simp] theorem State.withLo_pc (s : State) (v : DWord) : (s.withLo v).pc = s.pc := rfl
@[simp] theorem State.withLo_npc (s : State) (v : DWord) : (s.withLo v).npc = s.npc := rfl
@[simp] theorem State.withLo_inDelaySlot (s : State) (v : DWord) : (s.withLo v).inDelaySlot = s.inDelaySlot := rfl
@[simp] theorem State.withLo_llBit (s : State) (v : DWord) : (s.withLo v).llBit = s.llBit := rfl
@[simp] theorem State.withLo_llAddr (s : State) (v : DWord) : (s.withLo v).llAddr = s.llAddr := rfl
@[simp] theorem State.withLo_llWidth (s : State) (v : DWord) : (s.withLo v).llWidth = s.llWidth := rfl
@[simp] theorem State.withLo_llIntact (s : State) (v : DWord) : (s.withLo v).llIntact = s.llIntact := rfl
@[simp] theorem State.withLo_llBlock (s : State) (v : DWord) : (s.withLo v).llBlock = s.llBlock := rfl
@[simp] theorem State.withLo_hiGuard (s : State) (v : DWord) : (s.withLo v).hiGuard = s.hiGuard := rfl
@[simp] theorem State.withLo_loGuard (s : State) (v : DWord) : (s.withLo v).loGuard = s.loGuard := rfl
@[simp] theorem State.withLo_hiReads (s : State) (v : DWord) : (s.withLo v).hiReads = s.hiReads := rfl
@[simp] theorem State.withLo_loReads (s : State) (v : DWord) : (s.withLo v).loReads = s.loReads := rfl
@[simp] theorem State.withLo_hiloUnread (s : State) (v : DWord) : (s.withLo v).hiloUnread = s.hiloUnread := rfl
@[simp] theorem State.withLo_mem (s : State) (v : DWord) : (s.withLo v).mem = s.mem := rfl
@[simp] theorem State.withLo_stored (s : State) (v : DWord) : (s.withLo v).stored = s.stored := rfl
@[simp] theorem State.withLo_exc (s : State) (v : DWord) : (s.withLo v).exc = s.exc := rfl
@[simp] theorem State.withLo_draws (s : State) (v : DWord) : (s.withLo v).draws = s.draws := rfl
@[simp] theorem State.withLo_config (s : State) (v : DWord) : (s.withLo v).config = s.config := rfl
@[simp] theorem State.withLo_reg (s : State) (v : DWord) (r : RegIdx) : (s.withLo v).reg r = s.reg r := rfl
@[simp] theorem State.withLo_byteAt (s : State) (v : DWord) (a : Addr) : (s.withLo v).byteAt a = s.byteAt a := rfl

/-! ### After a read of HI or LO -/

@[simp] theorem State.hiLoRead_gpr (s : State) : (s.hiLoRead).gpr = s.gpr := rfl
@[simp] theorem State.hiLoRead_hi (s : State) : (s.hiLoRead).hi = s.hi := rfl
@[simp] theorem State.hiLoRead_lo (s : State) : (s.hiLoRead).lo = s.lo := rfl
@[simp] theorem State.hiLoRead_pc (s : State) : (s.hiLoRead).pc = s.pc := rfl
@[simp] theorem State.hiLoRead_npc (s : State) : (s.hiLoRead).npc = s.npc := rfl
@[simp] theorem State.hiLoRead_inDelaySlot (s : State) : (s.hiLoRead).inDelaySlot = s.inDelaySlot := rfl
@[simp] theorem State.hiLoRead_llBit (s : State) : (s.hiLoRead).llBit = s.llBit := rfl
@[simp] theorem State.hiLoRead_llAddr (s : State) : (s.hiLoRead).llAddr = s.llAddr := rfl
@[simp] theorem State.hiLoRead_llWidth (s : State) : (s.hiLoRead).llWidth = s.llWidth := rfl
@[simp] theorem State.hiLoRead_llIntact (s : State) : (s.hiLoRead).llIntact = s.llIntact := rfl
@[simp] theorem State.hiLoRead_llBlock (s : State) : (s.hiLoRead).llBlock = s.llBlock := rfl
@[simp] theorem State.hiLoRead_hiGuard (s : State) : (s.hiLoRead).hiGuard = s.hiGuard := rfl
@[simp] theorem State.hiLoRead_loGuard (s : State) : (s.hiLoRead).loGuard = s.loGuard := rfl
@[simp] theorem State.hiLoRead_hiReads (s : State) : (s.hiLoRead).hiReads = s.hiReads := rfl
@[simp] theorem State.hiLoRead_loReads (s : State) : (s.hiLoRead).loReads = s.loReads := rfl
@[simp] theorem State.hiLoRead_hiloUnread (s : State) : (s.hiLoRead).hiloUnread = false := rfl
@[simp] theorem State.hiLoRead_mem (s : State) : (s.hiLoRead).mem = s.mem := rfl
@[simp] theorem State.hiLoRead_stored (s : State) : (s.hiLoRead).stored = s.stored := rfl
@[simp] theorem State.hiLoRead_exc (s : State) : (s.hiLoRead).exc = s.exc := rfl
@[simp] theorem State.hiLoRead_draws (s : State) : (s.hiLoRead).draws = s.draws := rfl
@[simp] theorem State.hiLoRead_config (s : State) : (s.hiLoRead).config = s.config := rfl
@[simp] theorem State.hiLoRead_reg (s : State) (r : RegIdx) : (s.hiLoRead).reg r = s.reg r := rfl
@[simp] theorem State.hiLoRead_byteAt (s : State) (a : Addr) : (s.hiLoRead).byteAt a = s.byteAt a := rfl

/-! ### After a load linked -/

@[simp] theorem State.linked_gpr (s : State) (w : LinkWidth) (ea : Addr) : (s.linked w ea).gpr = s.gpr := rfl
@[simp] theorem State.linked_hi (s : State) (w : LinkWidth) (ea : Addr) : (s.linked w ea).hi = s.hi := rfl
@[simp] theorem State.linked_lo (s : State) (w : LinkWidth) (ea : Addr) : (s.linked w ea).lo = s.lo := rfl
@[simp] theorem State.linked_pc (s : State) (w : LinkWidth) (ea : Addr) : (s.linked w ea).pc = s.pc := rfl
@[simp] theorem State.linked_npc (s : State) (w : LinkWidth) (ea : Addr) : (s.linked w ea).npc = s.npc := rfl
@[simp] theorem State.linked_inDelaySlot (s : State) (w : LinkWidth) (ea : Addr) : (s.linked w ea).inDelaySlot = s.inDelaySlot := rfl
@[simp] theorem State.linked_llBit (s : State) (w : LinkWidth) (ea : Addr) : (s.linked w ea).llBit = true := rfl
@[simp] theorem State.linked_llAddr (s : State) (w : LinkWidth) (ea : Addr) : (s.linked w ea).llAddr = ea := rfl
@[simp] theorem State.linked_llWidth (s : State) (w : LinkWidth) (ea : Addr) : (s.linked w ea).llWidth = some w := rfl
@[simp] theorem State.linked_llIntact (s : State) (w : LinkWidth) (ea : Addr) : (s.linked w ea).llIntact = true := rfl
@[simp] theorem State.linked_llBlock (s : State) (w : LinkWidth) (ea : Addr) : (s.linked w ea).llBlock = blockOf s.pc := rfl
@[simp] theorem State.linked_hiGuard (s : State) (w : LinkWidth) (ea : Addr) : (s.linked w ea).hiGuard = s.hiGuard := rfl
@[simp] theorem State.linked_loGuard (s : State) (w : LinkWidth) (ea : Addr) : (s.linked w ea).loGuard = s.loGuard := rfl
@[simp] theorem State.linked_hiReads (s : State) (w : LinkWidth) (ea : Addr) : (s.linked w ea).hiReads = s.hiReads := rfl
@[simp] theorem State.linked_loReads (s : State) (w : LinkWidth) (ea : Addr) : (s.linked w ea).loReads = s.loReads := rfl
@[simp] theorem State.linked_hiloUnread (s : State) (w : LinkWidth) (ea : Addr) : (s.linked w ea).hiloUnread = s.hiloUnread := rfl
@[simp] theorem State.linked_mem (s : State) (w : LinkWidth) (ea : Addr) : (s.linked w ea).mem = s.mem := rfl
@[simp] theorem State.linked_stored (s : State) (w : LinkWidth) (ea : Addr) : (s.linked w ea).stored = s.stored := rfl
@[simp] theorem State.linked_exc (s : State) (w : LinkWidth) (ea : Addr) : (s.linked w ea).exc = s.exc := rfl
@[simp] theorem State.linked_draws (s : State) (w : LinkWidth) (ea : Addr) : (s.linked w ea).draws = s.draws := rfl
@[simp] theorem State.linked_config (s : State) (w : LinkWidth) (ea : Addr) : (s.linked w ea).config = s.config := rfl
@[simp] theorem State.linked_reg (s : State) (w : LinkWidth) (ea : Addr) (r : RegIdx) : (s.linked w ea).reg r = s.reg r := rfl
@[simp] theorem State.linked_byteAt (s : State) (w : LinkWidth) (ea : Addr) (a : Addr) : (s.linked w ea).byteAt a = s.byteAt a := rfl

/-! ### After a write of `LLbit` -/

@[simp] theorem State.withLLbit_gpr (s : State) (b : Bool) : (s.withLLbit b).gpr = s.gpr := rfl
@[simp] theorem State.withLLbit_hi (s : State) (b : Bool) : (s.withLLbit b).hi = s.hi := rfl
@[simp] theorem State.withLLbit_lo (s : State) (b : Bool) : (s.withLLbit b).lo = s.lo := rfl
@[simp] theorem State.withLLbit_pc (s : State) (b : Bool) : (s.withLLbit b).pc = s.pc := rfl
@[simp] theorem State.withLLbit_npc (s : State) (b : Bool) : (s.withLLbit b).npc = s.npc := rfl
@[simp] theorem State.withLLbit_inDelaySlot (s : State) (b : Bool) : (s.withLLbit b).inDelaySlot = s.inDelaySlot := rfl
@[simp] theorem State.withLLbit_llBit (s : State) (b : Bool) : (s.withLLbit b).llBit = b := rfl
@[simp] theorem State.withLLbit_llAddr (s : State) (b : Bool) : (s.withLLbit b).llAddr = s.llAddr := rfl
@[simp] theorem State.withLLbit_llWidth (s : State) (b : Bool) : (s.withLLbit b).llWidth = s.llWidth := rfl
@[simp] theorem State.withLLbit_llIntact (s : State) (b : Bool) : (s.withLLbit b).llIntact = s.llIntact := rfl
@[simp] theorem State.withLLbit_llBlock (s : State) (b : Bool) : (s.withLLbit b).llBlock = s.llBlock := rfl
@[simp] theorem State.withLLbit_hiGuard (s : State) (b : Bool) : (s.withLLbit b).hiGuard = s.hiGuard := rfl
@[simp] theorem State.withLLbit_loGuard (s : State) (b : Bool) : (s.withLLbit b).loGuard = s.loGuard := rfl
@[simp] theorem State.withLLbit_hiReads (s : State) (b : Bool) : (s.withLLbit b).hiReads = s.hiReads := rfl
@[simp] theorem State.withLLbit_loReads (s : State) (b : Bool) : (s.withLLbit b).loReads = s.loReads := rfl
@[simp] theorem State.withLLbit_hiloUnread (s : State) (b : Bool) : (s.withLLbit b).hiloUnread = s.hiloUnread := rfl
@[simp] theorem State.withLLbit_mem (s : State) (b : Bool) : (s.withLLbit b).mem = s.mem := rfl
@[simp] theorem State.withLLbit_stored (s : State) (b : Bool) : (s.withLLbit b).stored = s.stored := rfl
@[simp] theorem State.withLLbit_exc (s : State) (b : Bool) : (s.withLLbit b).exc = s.exc := rfl
@[simp] theorem State.withLLbit_draws (s : State) (b : Bool) : (s.withLLbit b).draws = s.draws := rfl
@[simp] theorem State.withLLbit_config (s : State) (b : Bool) : (s.withLLbit b).config = s.config := rfl
@[simp] theorem State.withLLbit_reg (s : State) (b : Bool) (r : RegIdx) : (s.withLLbit b).reg r = s.reg r := rfl
@[simp] theorem State.withLLbit_byteAt (s : State) (b : Bool) (a : Addr) : (s.withLLbit b).byteAt a = s.byteAt a := rfl

/-! ### Registers (10_state.md R21) -/

/-- Reading a register uses the register file alone. -/
theorem State.reg_congr {s t : State} (h : t.gpr = s.gpr) (r : RegIdx) : t.reg r = s.reg r := by
  simp [State.reg, h]

/-- Reading memory uses the memory alone. -/
theorem State.byteAt_congr {s t : State} (h : t.mem = s.mem) (a : Addr) : t.byteAt a = s.byteAt a := by
  simp [State.byteAt, h]

/-- Register 0 reads as 0. -/
@[simp] theorem State.reg_zero (s : State) : s.reg 0 = 0 := rfl

/-- A register reads as what was written to it, register 0 as 0. -/
theorem State.setReg_reg_self (s : State) (i : RegIdx) (v : DWord) :
    (s.setReg i v).reg i = if i = 0 then 0 else v := by
  unfold State.reg
  split
  · rfl
  · next h => simp only [State.setReg_gpr, if_neg h, Vector.getElem_set_self]

/-- A write leaves every other register alone. -/
theorem State.setReg_reg_ne (s : State) {i r : RegIdx} (h : r ≠ i) (v : DWord) :
    (s.setReg i v).reg r = s.reg r := by
  have hn : i.toNat ≠ r.toNat := fun e => h (BitVec.eq_of_toNat_eq e.symm)
  unfold State.reg
  split
  · rfl
  · simp only [State.setReg_gpr]
    split
    · rfl
    · rw [Vector.getElem_set_ne _ _ hn]

/-- Reading any register after a write. -/
theorem State.setReg_reg (s : State) (i r : RegIdx) (v : DWord) :
    (s.setReg i v).reg r = if r = i then (if i = 0 then 0 else v) else s.reg r := by
  by_cases h : r = i
  · subst h; simp [State.setReg_reg_self]
  · simp [h, State.setReg_reg_ne]

end Sys2Proof.Machine
end

