-- ==== Sys2Proof/Laws/Memory.lean ====
section
/-! SUPPORT. The laws of memory: what a read finds after a write, that every operation keeps the canonical form, and what
lanes read and write. -/

namespace Sys2Proof.Machine

/-! ### Finding after inserting -/

/-- A read at the address of a write finds the value written. -/
@[simp] theorem Memory.find_insert_self (m : Memory) (a : Nat) (v : Byte) :
    Memory.find (Memory.insert m a v) a = some v := by
  induction m with
  | nil => simp [Memory.insert, Memory.find]
  | cons e m ih =>
    obtain ⟨k, b⟩ := e
    simp only [Memory.insert]
    split
    · simp [Memory.find]
    · split
      · simp [Memory.find]
      · next h => simp [Memory.find, Ne.symm h, ih]

/-- A write leaves every other address alone. -/
theorem Memory.find_insert_ne (m : Memory) {a c : Nat} (h : c ≠ a) (v : Byte) :
    Memory.find (Memory.insert m a v) c = Memory.find m c := by
  induction m with
  | nil => simp [Memory.insert, Memory.find, Ne.symm h]
  | cons e m ih =>
    obtain ⟨k, b⟩ := e
    simp only [Memory.insert]
    split
    · simp [Memory.find, Ne.symm h]
    · split
      · next hk => subst hk; simp [Memory.find, Ne.symm h]
      · simp [Memory.find, ih]

/-- An address that is listed stays listed. -/
theorem Memory.find_insert_isSome (m : Memory) (a c : Nat) (v : Byte) (h : (Memory.find m c).isSome = true) :
    (Memory.find (Memory.insert m a v) c).isSome = true := by
  by_cases hc : c = a
  · subst hc; simp
  · rw [Memory.find_insert_ne m hc]; exact h

/-! ### The canonical form -/

/-- Membership after adding an address. -/
theorem mem_insertAddr (l : List Nat) (a c : Nat) : c ∈ insertAddr l a ↔ c = a ∨ c ∈ l := by
  induction l with
  | nil => simp [insertAddr]
  | cons k l ih =>
    simp only [insertAddr]
    split
    · simp
    · split
      · next h => subst h; simp
      · simp only [List.mem_cons, ih]; tauto

/-- What `risingAddrs` tests. -/
theorem risingAddrs_iff (l : List Nat) : risingAddrs l = true ↔ l.Pairwise (· < ·) ∧ ∀ a ∈ l, a < 2 ^ 64 := by
  induction l with
  | nil => simp [risingAddrs]
  | cons a l ih =>
    cases l with
    | nil => simp [risingAddrs]
    | cons b l =>
      simp only [risingAddrs, Bool.and_eq_true, decide_eq_true_eq, ih, List.pairwise_cons, List.mem_cons,
        forall_eq_or_imp]
      constructor
      · rintro ⟨hab, ⟨hb, hl⟩, hb64, hl64⟩
        exact ⟨⟨⟨hab, fun c hc => hab.trans (hb c hc)⟩, hb, hl⟩, hab.trans hb64, hb64, hl64⟩
      · rintro ⟨⟨⟨hab, _⟩, hb, hl⟩, _, hb64, hl64⟩
        exact ⟨hab, ⟨hb, hl⟩, hb64, hl64⟩

/-- Adding an address keeps the order. -/
theorem insertAddr_rising (l : List Nat) {a : Nat} (ha : a < 2 ^ 64) (h : risingAddrs l = true) :
    risingAddrs (insertAddr l a) = true := by
  rw [risingAddrs_iff] at h ⊢
  obtain ⟨hp, hb⟩ := h
  refine ⟨?_, fun c hc => ?_⟩
  · clear hb
    induction l with
    | nil => simp [insertAddr]
    | cons k l ih =>
      rw [List.pairwise_cons] at hp
      simp only [insertAddr]
      split
      · next hak =>
        rw [List.pairwise_cons, List.pairwise_cons]
        refine ⟨fun c hc => ?_, hp⟩
        rcases List.mem_cons.mp hc with rfl | hc
        · exact hak
        · exact hak.trans (hp.1 c hc)
      · split
        · exact List.pairwise_cons.mpr hp
        · rw [List.pairwise_cons]
          refine ⟨fun c hc => ?_, ih hp.2⟩
          rcases (mem_insertAddr l a c).mp hc with rfl | hc
          · omega
          · exact hp.1 c hc
  · rcases (mem_insertAddr l a c).mp hc with rfl | hc
    · exact ha
    · exact hb c hc

/-- The addresses listed after a write. -/
theorem Memory.insert_keys (m : Memory) (a : Nat) (v : Byte) :
    (Memory.insert m a v).map Prod.fst = insertAddr (m.map Prod.fst) a := by
  induction m with
  | nil => rfl
  | cons e m ih =>
    obtain ⟨k, b⟩ := e
    simp only [Memory.insert, List.map_cons, insertAddr]
    split
    · rfl
    · split
      · next h => simp [h]
      · simp [ih]

/-- A write keeps the canonical form. -/
theorem Memory.insert_wf {m : Memory} (h : Memory.wf m = true) {a : Nat} (ha : a < 2 ^ 64) (v : Byte) :
    Memory.wf (Memory.insert m a v) = true := by
  unfold Memory.wf
  rw [Memory.insert_keys]
  exact insertAddr_rising _ ha h

/-- The memory of the reset state has the canonical form. -/
theorem reset_mem_wf : Memory.wf State.reset.mem = true := rfl

/-- Storing a byte keeps the canonical form. -/
theorem State.storeByte_wf {s : State} (h : Memory.wf s.mem = true) (a : Addr) (b : Byte) :
    Memory.wf (s.storeByte a b).mem = true := Memory.insert_wf h a.isLt b

/-- Placing a byte keeps the canonical form. -/
theorem State.placeByte_wf {s : State} (h : Memory.wf s.mem = true) (a : Addr) (b : Byte) :
    Memory.wf (s.placeByte a b).mem = true := Memory.insert_wf h a.isLt b

/-- Storing bytes keeps the canonical form. -/
theorem State.storeBytes_wf (l : List (Addr × Byte)) {s : State} (h : Memory.wf s.mem = true) :
    Memory.wf (s.storeBytes l).mem = true := by
  induction l generalizing s with
  | nil => exact h
  | cons e l ih => exact ih (State.storeByte_wf h e.1 e.2)

/-- Placing bytes keeps the canonical form. -/
theorem State.place_wf (l : List (Addr × Byte)) {s : State} (h : Memory.wf s.mem = true) :
    Memory.wf (s.place l).mem = true := by
  induction l generalizing s with
  | nil => exact h
  | cons e l ih => exact ih (State.placeByte_wf h e.1 e.2)

/-- Storing into a lane keeps the canonical form. -/
theorem State.writeLane_wf {s : State} (h : Memory.wf s.mem = true) (l : Lane) (v : DWord) :
    Memory.wf (s.writeLane l v).mem = true := State.storeBytes_wf _ h

/-! ### Bytes read after bytes stored -/

/-- The byte at an address after an insertion. -/
theorem Memory.byte_insert (m : Memory) (a c : Addr) (b : Byte) :
    Memory.byte (Memory.insert m a.toNat b) c = if c = a then b else Memory.byte m c := by
  by_cases h : c = a
  · subst h; simp [Memory.byte]
  · have hn : c.toNat ≠ a.toNat := fun e => h (BitVec.eq_of_toNat_eq e)
    simp [Memory.byte, Memory.find_insert_ne m hn, h]

/-- The byte at an address after a store of a byte. -/
theorem State.storeByte_byteAt (s : State) (a c : Addr) (b : Byte) :
    (s.storeByte a b).byteAt c = if c = a then b else s.byteAt c := Memory.byte_insert s.mem a c b

/-- The byte at an address after the placing of a byte. -/
theorem State.placeByte_byteAt (s : State) (a c : Addr) (b : Byte) :
    (s.placeByte a b).byteAt c = if c = a then b else s.byteAt c := Memory.byte_insert s.mem a c b

/-! ### Storing bytes changes memory and the list of addresses stored to alone -/

@[simp] theorem State.storeBytes_gpr (s : State) (l : List (Addr × Byte)) : (s.storeBytes l).gpr = s.gpr := by
  induction l generalizing s with
  | nil => rfl
  | cons e l ih => exact ih (s.storeByte e.1 e.2)

@[simp] theorem State.writeLane_gpr (s : State) (l : Lane) (v : DWord) : (s.writeLane l v).gpr = s.gpr :=
  State.storeBytes_gpr s _

@[simp] theorem State.storeBytes_hi (s : State) (l : List (Addr × Byte)) : (s.storeBytes l).hi = s.hi := by
  induction l generalizing s with
  | nil => rfl
  | cons e l ih => exact ih (s.storeByte e.1 e.2)

@[simp] theorem State.writeLane_hi (s : State) (l : Lane) (v : DWord) : (s.writeLane l v).hi = s.hi :=
  State.storeBytes_hi s _

@[simp] theorem State.storeBytes_lo (s : State) (l : List (Addr × Byte)) : (s.storeBytes l).lo = s.lo := by
  induction l generalizing s with
  | nil => rfl
  | cons e l ih => exact ih (s.storeByte e.1 e.2)

@[simp] theorem State.writeLane_lo (s : State) (l : Lane) (v : DWord) : (s.writeLane l v).lo = s.lo :=
  State.storeBytes_lo s _

@[simp] theorem State.storeBytes_pc (s : State) (l : List (Addr × Byte)) : (s.storeBytes l).pc = s.pc := by
  induction l generalizing s with
  | nil => rfl
  | cons e l ih => exact ih (s.storeByte e.1 e.2)

@[simp] theorem State.writeLane_pc (s : State) (l : Lane) (v : DWord) : (s.writeLane l v).pc = s.pc :=
  State.storeBytes_pc s _

@[simp] theorem State.storeBytes_npc (s : State) (l : List (Addr × Byte)) : (s.storeBytes l).npc = s.npc := by
  induction l generalizing s with
  | nil => rfl
  | cons e l ih => exact ih (s.storeByte e.1 e.2)

@[simp] theorem State.writeLane_npc (s : State) (l : Lane) (v : DWord) : (s.writeLane l v).npc = s.npc :=
  State.storeBytes_npc s _

@[simp] theorem State.storeBytes_inDelaySlot (s : State) (l : List (Addr × Byte)) : (s.storeBytes l).inDelaySlot = s.inDelaySlot := by
  induction l generalizing s with
  | nil => rfl
  | cons e l ih => exact ih (s.storeByte e.1 e.2)

@[simp] theorem State.writeLane_inDelaySlot (s : State) (l : Lane) (v : DWord) : (s.writeLane l v).inDelaySlot = s.inDelaySlot :=
  State.storeBytes_inDelaySlot s _

@[simp] theorem State.storeBytes_llBit (s : State) (l : List (Addr × Byte)) : (s.storeBytes l).llBit = s.llBit := by
  induction l generalizing s with
  | nil => rfl
  | cons e l ih => exact ih (s.storeByte e.1 e.2)

@[simp] theorem State.writeLane_llBit (s : State) (l : Lane) (v : DWord) : (s.writeLane l v).llBit = s.llBit :=
  State.storeBytes_llBit s _

@[simp] theorem State.storeBytes_llAddr (s : State) (l : List (Addr × Byte)) : (s.storeBytes l).llAddr = s.llAddr := by
  induction l generalizing s with
  | nil => rfl
  | cons e l ih => exact ih (s.storeByte e.1 e.2)

@[simp] theorem State.writeLane_llAddr (s : State) (l : Lane) (v : DWord) : (s.writeLane l v).llAddr = s.llAddr :=
  State.storeBytes_llAddr s _

@[simp] theorem State.storeBytes_llWidth (s : State) (l : List (Addr × Byte)) : (s.storeBytes l).llWidth = s.llWidth := by
  induction l generalizing s with
  | nil => rfl
  | cons e l ih => exact ih (s.storeByte e.1 e.2)

@[simp] theorem State.writeLane_llWidth (s : State) (l : Lane) (v : DWord) : (s.writeLane l v).llWidth = s.llWidth :=
  State.storeBytes_llWidth s _

@[simp] theorem State.storeBytes_llIntact (s : State) (l : List (Addr × Byte)) : (s.storeBytes l).llIntact = s.llIntact := by
  induction l generalizing s with
  | nil => rfl
  | cons e l ih => exact ih (s.storeByte e.1 e.2)

@[simp] theorem State.writeLane_llIntact (s : State) (l : Lane) (v : DWord) : (s.writeLane l v).llIntact = s.llIntact :=
  State.storeBytes_llIntact s _

@[simp] theorem State.storeBytes_llBlock (s : State) (l : List (Addr × Byte)) : (s.storeBytes l).llBlock = s.llBlock := by
  induction l generalizing s with
  | nil => rfl
  | cons e l ih => exact ih (s.storeByte e.1 e.2)

@[simp] theorem State.writeLane_llBlock (s : State) (l : Lane) (v : DWord) : (s.writeLane l v).llBlock = s.llBlock :=
  State.storeBytes_llBlock s _

@[simp] theorem State.storeBytes_hiGuard (s : State) (l : List (Addr × Byte)) : (s.storeBytes l).hiGuard = s.hiGuard := by
  induction l generalizing s with
  | nil => rfl
  | cons e l ih => exact ih (s.storeByte e.1 e.2)

@[simp] theorem State.writeLane_hiGuard (s : State) (l : Lane) (v : DWord) : (s.writeLane l v).hiGuard = s.hiGuard :=
  State.storeBytes_hiGuard s _

@[simp] theorem State.storeBytes_loGuard (s : State) (l : List (Addr × Byte)) : (s.storeBytes l).loGuard = s.loGuard := by
  induction l generalizing s with
  | nil => rfl
  | cons e l ih => exact ih (s.storeByte e.1 e.2)

@[simp] theorem State.writeLane_loGuard (s : State) (l : Lane) (v : DWord) : (s.writeLane l v).loGuard = s.loGuard :=
  State.storeBytes_loGuard s _

@[simp] theorem State.storeBytes_hiReads (s : State) (l : List (Addr × Byte)) : (s.storeBytes l).hiReads = s.hiReads := by
  induction l generalizing s with
  | nil => rfl
  | cons e l ih => exact ih (s.storeByte e.1 e.2)

@[simp] theorem State.writeLane_hiReads (s : State) (l : Lane) (v : DWord) : (s.writeLane l v).hiReads = s.hiReads :=
  State.storeBytes_hiReads s _

@[simp] theorem State.storeBytes_loReads (s : State) (l : List (Addr × Byte)) : (s.storeBytes l).loReads = s.loReads := by
  induction l generalizing s with
  | nil => rfl
  | cons e l ih => exact ih (s.storeByte e.1 e.2)

@[simp] theorem State.writeLane_loReads (s : State) (l : Lane) (v : DWord) : (s.writeLane l v).loReads = s.loReads :=
  State.storeBytes_loReads s _

@[simp] theorem State.storeBytes_hiloUnread (s : State) (l : List (Addr × Byte)) : (s.storeBytes l).hiloUnread = s.hiloUnread := by
  induction l generalizing s with
  | nil => rfl
  | cons e l ih => exact ih (s.storeByte e.1 e.2)

@[simp] theorem State.writeLane_hiloUnread (s : State) (l : Lane) (v : DWord) : (s.writeLane l v).hiloUnread = s.hiloUnread :=
  State.storeBytes_hiloUnread s _

@[simp] theorem State.storeBytes_exc (s : State) (l : List (Addr × Byte)) : (s.storeBytes l).exc = s.exc := by
  induction l generalizing s with
  | nil => rfl
  | cons e l ih => exact ih (s.storeByte e.1 e.2)

@[simp] theorem State.writeLane_exc (s : State) (l : Lane) (v : DWord) : (s.writeLane l v).exc = s.exc :=
  State.storeBytes_exc s _

@[simp] theorem State.storeBytes_draws (s : State) (l : List (Addr × Byte)) : (s.storeBytes l).draws = s.draws := by
  induction l generalizing s with
  | nil => rfl
  | cons e l ih => exact ih (s.storeByte e.1 e.2)

@[simp] theorem State.writeLane_draws (s : State) (l : Lane) (v : DWord) : (s.writeLane l v).draws = s.draws :=
  State.storeBytes_draws s _

@[simp] theorem State.storeBytes_config (s : State) (l : List (Addr × Byte)) : (s.storeBytes l).config = s.config := by
  induction l generalizing s with
  | nil => rfl
  | cons e l ih => exact ih (s.storeByte e.1 e.2)

@[simp] theorem State.writeLane_config (s : State) (l : Lane) (v : DWord) : (s.writeLane l v).config = s.config :=
  State.storeBytes_config s _

@[simp] theorem State.writeLane_reg (s : State) (l : Lane) (v : DWord) (r : RegIdx) :
    (s.writeLane l v).reg r = s.reg r := State.reg_congr (by simp) r

/-- Bytes elsewhere are unchanged. -/
theorem State.storeBytes_byteAt_other (l : List (Addr × Byte)) (s : State) {c : Addr} (h : ∀ p ∈ l, c ≠ p.1) :
    (s.storeBytes l).byteAt c = s.byteAt c := by
  induction l generalizing s with
  | nil => rfl
  | cons e l ih =>
    have he := h e (by simp)
    rw [State.storeBytes, ih _ (fun p hp => h p (by simp [hp])), State.storeByte_byteAt, if_neg he]

/-- A byte stored is read back, where the addresses differ from one another. -/
theorem State.storeBytes_byteAt_mem (l : List (Addr × Byte)) (s : State)
    (hl : l.Pairwise fun p q => p.1 ≠ q.1) {p : Addr × Byte} (hp : p ∈ l) : (s.storeBytes l).byteAt p.1 = p.2 := by
  induction l generalizing s with
  | nil => simp at hp
  | cons e l ih =>
    rw [List.pairwise_cons] at hl
    rw [State.storeBytes]
    rcases List.mem_cons.mp hp with rfl | hp
    · rw [State.storeBytes_byteAt_other l _ hl.1, State.storeByte_byteAt, if_pos rfl]
    · exact ih _ hl.2 hp

/-- The addresses stored to afterwards. -/
theorem State.storeBytes_stored (l : List (Addr × Byte)) (s : State) (a : Nat) :
    a ∈ (s.storeBytes l).stored ↔ a ∈ s.stored ∨ ∃ p ∈ l, p.1.toNat = a := by
  induction l generalizing s with
  | nil => simp [State.storeBytes]
  | cons e l ih =>
    rw [State.storeBytes, ih, State.storeByte_stored, mem_insertAddr]
    simp only [List.mem_cons, exists_eq_or_imp]
    constructor
    · rintro ((h | h) | h)
      · exact .inr (.inl h.symm)
      · exact .inl h
      · exact .inr (.inr h)
    · rintro (h | h | h)
      · exact .inl (.inr h)
      · exact .inl (.inl h.symm)
      · exact .inr h

/-- Storing bytes keeps the list of addresses stored to in order, and every one of them listed in memory. -/
theorem State.storeBytes_keeps (l : List (Addr × Byte)) {s : State} (hr : risingAddrs s.stored = true)
    (hm : ∀ a ∈ s.stored, (Memory.find s.mem a).isSome = true) :
    risingAddrs (s.storeBytes l).stored = true ∧
      ∀ a ∈ (s.storeBytes l).stored, (Memory.find (s.storeBytes l).mem a).isSome = true := by
  induction l generalizing s with
  | nil => exact ⟨hr, hm⟩
  | cons e l ih =>
    refine ih (s := s.storeByte e.1 e.2) (insertAddr_rising _ e.1.isLt hr) fun a ha => ?_
    rw [State.storeByte_stored, mem_insertAddr] at ha
    rw [State.storeByte_mem]
    rcases ha with rfl | ha
    · simp
    · exact Memory.find_insert_isSome _ _ _ _ (hm a ha)

/-! ### Lanes -/

/-- The place of a byte in its item, by rising address, from its significance. -/
theorem sigAddr_eq (be : Bool) (item : Addr) (size sig : Nat) :
    sigAddr be item size sig = item + BitVec.ofNat 64 (if be then size - 1 - sig else sig) := rfl

/-- Places of an item differ from one another. -/
theorem place_inj (item : Addr) {i j : Nat} (hi : i < 2 ^ 64) (hj : j < 2 ^ 64)
    (h : item + BitVec.ofNat 64 i = item + BitVec.ofNat 64 j) : i = j := by
  have h2 := congrArg BitVec.toNat (add_left_cancel h)
  rwa [BitVec.toNat_ofNat, BitVec.toNat_ofNat, Nat.mod_eq_of_lt hi, Nat.mod_eq_of_lt hj] at h2

/-- Bytes of different significance have different addresses. -/
theorem sigAddr_inj (be : Bool) (item : Addr) {size i j : Nat} (hs : size ≤ 2 ^ 64) (hi : i < size) (hj : j < size)
    (h : sigAddr be item size i = sigAddr be item size j) : i = j := by
  have := place_inj item (i := if be then size - 1 - i else i) (j := if be then size - 1 - j else j)
    (by split <;> omega) (by split <;> omega) h
  split at this <;> omega

/-- The bytes that a lane's write stores. -/
theorem State.mem_laneBytes {be : Bool} {l : Lane} {v : DWord} {p : Addr × Byte} :
    (p ∈ (List.range l.count).map fun i => (sigAddr be l.item l.size (l.low + i), byteOf v i)) ↔
      ∃ i, i < l.count ∧ p = (sigAddr be l.item l.size (l.low + i), byteOf v i) := by
  simp only [List.mem_map, List.mem_range]
  exact exists_congr fun i => and_congr_right fun _ => eq_comm

/-- A byte of the lane reads as the byte of the value stored there. -/
theorem State.writeLane_byteAt_at (s : State) (l : Lane) (v : DWord) (hs : l.size ≤ 2 ^ 64)
    (hl : l.low + l.count ≤ l.size) {i : Nat} (hi : i < l.count) :
    (s.writeLane l v).byteAt (sigAddr s.config.bigEndian l.item l.size (l.low + i)) = byteOf v i := by
  refine State.storeBytes_byteAt_mem _ s ?_ (State.mem_laneBytes.mpr ⟨i, hi, rfl⟩)
  rw [List.pairwise_map]
  refine (List.nodup_range (n := l.count)).imp_of_mem fun ha hb hne h => hne ?_
  have ha := List.mem_range.mp ha
  have hb := List.mem_range.mp hb
  have := sigAddr_inj _ _ hs (by omega) (by omega) h
  omega

/-- A byte outside the lane is unchanged. -/
theorem State.writeLane_byteAt_other (s : State) (l : Lane) (v : DWord) {c : Addr}
    (h : ∀ i, i < l.count → c ≠ sigAddr s.config.bigEndian l.item l.size (l.low + i)) :
    (s.writeLane l v).byteAt c = s.byteAt c := by
  refine State.storeBytes_byteAt_other _ s fun p hp => ?_
  obtain ⟨i, hi, rfl⟩ := State.mem_laneBytes.mp hp
  exact h i hi

/-- The addresses stored to after a lane's write. -/
theorem State.writeLane_stored (s : State) (l : Lane) (v : DWord) (a : Nat) :
    a ∈ (s.writeLane l v).stored ↔
      a ∈ s.stored ∨ ∃ i, i < l.count ∧ (sigAddr s.config.bigEndian l.item l.size (l.low + i)).toNat = a := by
  rw [State.writeLane, State.storeBytes_stored]
  refine or_congr_right ⟨?_, ?_⟩
  · rintro ⟨p, hp, rfl⟩
    obtain ⟨i, hi, rfl⟩ := State.mem_laneBytes.mp hp
    exact ⟨i, hi, rfl⟩
  · rintro ⟨i, hi, rfl⟩
    exact ⟨_, State.mem_laneBytes.mpr ⟨i, hi, rfl⟩, rfl⟩

/-- A byte of a value, as a number. -/
theorem byteOf_eq (v : DWord) (i : Nat) : byteOf v i = BitVec.ofNat 8 (v.toNat / 256 ^ i) := by
  apply BitVec.eq_of_toNat_eq
  rw [byteOf, BitVec.toNat_setWidth, BitVec.toNat_ushiftRight, BitVec.toNat_ofNat, Nat.shiftRight_eq_div_pow,
    Nat.pow_mul]

/-- The value of at most eight bytes is the number with those digits in base 256. -/
theorem valueOf_toNat (l : List Byte) (h : l.length ≤ 8) :
    (valueOf l).toNat = Nat.ofDigits 256 (l.map BitVec.toNat) := by
  have key : ∀ l : List Byte, l.length ≤ 8 →
      (valueOf l).toNat = Nat.ofDigits 256 (l.map BitVec.toNat) ∧ (valueOf l).toNat < 256 ^ l.length := by
    intro l
    induction l with
    | nil => intro _; simp [valueOf]
    | cons b l ih =>
      intro hl
      simp only [List.length_cons] at hl
      obtain ⟨h1, h2⟩ := ih (by omega)
      have hb := b.isLt
      have hp : 256 ^ l.length * 256 ≤ 2 ^ 64 := by
        rw [← Nat.pow_succ]
        calc 256 ^ (l.length + 1) ≤ 256 ^ 8 := Nat.pow_le_pow_right (by decide) hl
          _ = 2 ^ 64 := by norm_num
      have hlt : (valueOf l).toNat * 256 < 2 ^ 64 := by omega
      have hsh : (valueOf l <<< 8).toNat = (valueOf l).toNat * 256 := by
        rw [BitVec.toNat_shiftLeft, Nat.shiftLeft_eq]
        exact Nat.mod_eq_of_lt hlt
      have hor : (valueOf (b :: l)).toNat = b.toNat + 256 * (valueOf l).toNat := by
        simp only [valueOf, BitVec.toNat_or, hsh, BitVec.toNat_setWidth]
        rw [Nat.mod_eq_of_lt (by omega), Nat.or_comm]
        have := Nat.two_pow_add_eq_or_of_lt (i := 8) hb (valueOf l).toNat
        rw [Nat.mul_comm _ 256, show (256 : Nat) = 2 ^ 8 by norm_num, ← this]
        omega
      refine ⟨by rw [hor, h1]; simp [Nat.ofDigits_cons], ?_⟩
      rw [hor, List.length_cons, Nat.pow_succ]
      omega
  exact (key l h).1

/-- The value in a lane of at most eight bytes. -/
theorem State.readLane_toNat (s : State) (l : Lane) (h : l.count ≤ 8) :
    (s.readLane l).toNat = Nat.ofDigits 256 ((List.range l.count).map fun i =>
      (s.byteAt (sigAddr s.config.bigEndian l.item l.size (l.low + i))).toNat) := by
  rw [State.readLane, valueOf_toNat _ (by simpa [Lane.addrs] using h)]
  simp [Lane.addrs, Function.comp_def]

/-- Reading a lane after an update that leaves memory and the parameters alone. -/
theorem State.readLane_congr {s t : State} (hm : t.mem = s.mem) (hc : t.config = s.config) (l : Lane) :
    t.readLane l = s.readLane l := by
  rw [State.readLane, State.readLane, hc, funext (State.byteAt_congr hm)]

/-- The address of the aligned item that holds an address. -/
theorem itemOf_toNat (ea : Addr) (n : Nat) : (itemOf ea n).toNat = ea.toNat / n * n := by
  have h1 := Nat.mod_le ea.toNat n
  have h2 := ea.isLt
  have h3 := Nat.div_add_mod ea.toNat n
  rw [Nat.mul_comm] at h3
  have h4 : (BitVec.ofNat 64 (ea.toNat % n)).toNat = ea.toNat % n := by
    rw [BitVec.toNat_ofNat]; exact Nat.mod_eq_of_lt (by omega)
  rw [itemOf, BitVec.toNat_sub_of_le (by rw [BitVec.le_def, h4]; exact h1), h4]
  omega

end Sys2Proof.Machine
end

