-- ==== Sys2Proof/Laws/Ops.lean ====
section
/-! SUPPORT. For each shared operation, once, everything it can do. A lemma `<operation>_next` says which cases hold when the
operation answers a next state; a lemma `<operation>_eq` says what it answers under the conditions it tests. -/

namespace Sys2Proof.Machine

/-! ### Registers -/

/-- A write of a register and the end of an instruction, with one case for each register. -/
@[simp] theorem State.setRegAny_reg_ne (s : State) {i r : RegIdx} (h : r ≠ i) : (s.setRegAny i).reg r = s.reg r := by
  simp [State.setRegAny, State.setReg_reg_ne _ h]

/-! ### Address checks -/

/-- The access may be made exactly when every byte may be accessed. -/
theorem accessFault_eq_none (c : Config) (k : AccessKind) (addrs : List Addr) (ea : Addr) :
    accessFault c k addrs ea = none ↔ ∀ a ∈ addrs, byteAnswer c.regions k a = .allowed := by
  simp only [accessFault]
  split
  · next h => simpa using h
  · next h =>
    split
    · simpa using h
    · simpa using h

/-- What is raised where some byte may not be accessed. -/
theorem accessFault_eq_some {c : Config} {k : AccessKind} {addrs : List Addr} {ea : Addr} {e : Exception}
    (h : accessFault c k addrs ea = some e) :
    (∃ a ∈ addrs, byteAnswer c.regions k a ≠ .allowed) ∧
      ((∃ a ∈ addrs, byteAnswer c.regions k a = .addressError) → e = addressErrorOf k ea) ∧
      ((∀ a ∈ addrs, byteAnswer c.regions k a ≠ .addressError) → e = .memoryFault ea k) := by
  simp only [accessFault] at h
  split at h
  · simp at h
  · next hn =>
    refine ⟨by simpa using hn, ?_, ?_⟩
    · split at h
      · exact fun _ => (Option.some.inj h).symm
      · next hx => intro hy; exact absurd hy (by simpa using hx)
    · split at h
      · next hx => intro hy; exact absurd hx (by simpa using hy)
      · exact fun _ => (Option.some.inj h).symm

/-- The addresses of a lane. -/
theorem Lane.mem_addrs (be : Bool) (l : Lane) (a : Addr) :
    a ∈ l.addrs be ↔ ∃ i, i < l.count ∧ a = sigAddr be l.item l.size (l.low + i) := by
  simp only [Lane.addrs, List.mem_map, List.mem_range]
  exact exists_congr fun i => and_congr_right fun _ => eq_comm

/-- The addresses of a whole item are the `n` from its own. -/
theorem Lane.mem_whole_addrs (be : Bool) (ea : Addr) (n : Nat) (a : Addr) :
    a ∈ (Lane.whole ea n).addrs be ↔ ∃ i, i < n ∧ a = ea + BitVec.ofNat 64 i := by
  rw [Lane.mem_addrs]
  simp only [Lane.whole, sigAddr_eq]
  constructor
  · rintro ⟨i, hi, rfl⟩
    exact ⟨if be then n - 1 - i else i, by split <;> omega, by simp⟩
  · rintro ⟨i, hi, rfl⟩
    refine ⟨if be then n - 1 - i else i, by split <;> omega, ?_⟩
    cases be
    · simp
    · simp only [if_true]
      rw [show n - 1 - (0 + (n - 1 - i)) = i by omega]

/-! ### Levels and results -/

/-- An instruction of a reserved level raises Reserved Instruction; of any other level it does as its rule says. -/
theorem atLevel_next {level : ISAMode} {s t : State} {k : Result} (h : atLevel level s k = .next t) :
    (reserves s.config level = true ∧ t = s.stopAt .reservedInstruction) ∨
      (reserves s.config level = false ∧ k = .next t) := by
  unfold atLevel at h
  split at h
  · next hr => exact .inl ⟨hr, by simpa [State.raise] using h.symm⟩
  · next hr => exact .inr ⟨by simpa using hr, h⟩

/-- Where the level is not reserved the instruction does as its rule says. -/
theorem atLevel_eq {level : ISAMode} {s : State} (h : reserves s.config level = false) (k : Result) :
    atLevel level s k = k := by
  simp [atLevel, h]

/-- A trapping doubleword operation writes its result or stops. -/
theorem trappingResult64_next {s t : State} {rd : RegIdx} {r : Option DWord} (h : trappingResult64 s rd r = .next t) :
    (∃ v, r = some v ∧ t = (s.setReg rd v).retire .next) ∨ (r = none ∧ t = s.stopAt .integerOverflow) := by
  cases r with
  | some v => exact .inl ⟨v, rfl, by simpa [trappingResult64, writeResult] using h.symm⟩
  | none => exact .inr ⟨rfl, by simpa [trappingResult64, State.raise] using h.symm⟩

/-- A word operation writes its result, or any value where its precondition fails. -/
theorem wordResult_next {s t : State} {ok : Bool} {rd : RegIdx} {v : Word} (h : wordResult s ok rd v = .next t) :
    (ok = true ∧ t = (s.setReg rd (sext32 v)).retire .next) ∨
      (ok = false ∧ t = (s.setRegAny rd).retire .next) := by
  cases ok with
  | true => exact .inl ⟨rfl, by simpa [wordResult, writeResult] using h.symm⟩
  | false => exact .inr ⟨rfl, by simpa [wordResult, writeAny] using h.symm⟩

/-- A trapping word operation writes its result or stops; where its precondition fails, it stops or writes any value. -/
theorem trappingWordResult_next {s t : State} {ok : Bool} {rd : RegIdx} {r : Option Word}
    (h : trappingWordResult s ok rd r = .next t) :
    (ok = true ∧ (∃ v, r = some v ∧ t = (s.setReg rd (sext32 v)).retire .next)) ∨
      (ok = true ∧ r = none ∧ t = s.stopAt .integerOverflow) ∨
      (ok = false ∧ s.anyBit = true ∧ t = s.drawn.stopAt .integerOverflow) ∨
      (ok = false ∧ s.anyBit = false ∧ t = (s.drawn.setRegAny rd).retire .next) := by
  cases ok with
  | true =>
    cases r with
    | some v => exact .inl ⟨rfl, v, rfl, by simpa [trappingWordResult, writeResult] using h.symm⟩
    | none => exact .inr (.inl ⟨rfl, rfl, by simpa [trappingWordResult, State.raise] using h.symm⟩)
  | false =>
    cases hb : s.anyBit with
    | true => exact .inr (.inr (.inl ⟨rfl, rfl, by simpa [trappingWordResult, State.raise, hb] using h.symm⟩))
    | false => exact .inr (.inr (.inr ⟨rfl, rfl, by simpa [trappingWordResult, writeAny, hb] using h.symm⟩))

/-- A conditional trap stops, or does nothing. -/
theorem trapIf_next {s t : State} {cond : Bool} {code : BitVec 10} (h : trapIf s cond code = .next t) :
    (cond = true ∧ t = s.stopAt (.trap code)) ∨ (cond = false ∧ t = s.retire .next) := by
  cases cond with
  | true => exact .inl ⟨rfl, by simpa [trapIf, State.raise] using h.symm⟩
  | false => exact .inr ⟨rfl, by simpa [trapIf] using h.symm⟩

/-! ### Loads and stores -/

/-- A load of a lane stops at its address check, or loads. -/
theorem loadLane_next {s t : State} {rt : RegIdx} {ea : Addr} {l : Lane} {post : DWord → DWord}
    (h : loadLane s rt ea l post = .next t) :
    (∃ e, accessFault s.config .load (l.addrs s.config.bigEndian) ea = some e ∧ t = s.stopAt e) ∨
      (accessFault s.config .load (l.addrs s.config.bigEndian) ea = none ∧
        t = (s.accessed.setReg rt (post (s.readLane l))).retire .next) := by
  unfold loadLane at h
  split at h
  · next e he => exact .inl ⟨e, he, by simpa [State.raise] using h.symm⟩
  · next he => exact .inr ⟨he, by simpa using h.symm⟩

/-- A store into a lane stops at its address check, or stores. -/
theorem storeLane_next {s t : State} {ea : Addr} {l : Lane} {v : DWord} (h : storeLane s ea l v = .next t) :
    (∃ e, accessFault s.config .store (l.addrs s.config.bigEndian) ea = some e ∧ t = s.stopAt e) ∨
      (accessFault s.config .store (l.addrs s.config.bigEndian) ea = none ∧
        t = (s.accessed.writeLane l v).retire .next) := by
  unfold storeLane at h
  split at h
  · next e he => exact .inl ⟨e, he, by simpa [State.raise] using h.symm⟩
  · next he => exact .inr ⟨he, by simpa using h.symm⟩

/-- An aligned load stops at its alignment, or is the load of a whole item. -/
theorem loadAligned_next {s t : State} {n : Nat} {rt : RegIdx} {ea : Addr} {post : DWord → DWord}
    (h : loadAligned s n rt ea post = .next t) :
    (aligned ea n = false ∧ t = s.stopAt (.addressErrorLoad ea)) ∨
      (aligned ea n = true ∧ loadLane s rt ea (Lane.whole ea n) post = .next t) := by
  unfold loadAligned at h
  split at h
  · next ha => exact .inr ⟨ha, h⟩
  · next ha => exact .inl ⟨by simpa using ha, by simpa [State.raise] using h.symm⟩

/-- An aligned store stops at its alignment, or is the store of a whole item. -/
theorem storeAligned_next {s t : State} {n : Nat} {ea : Addr} {v : DWord} (h : storeAligned s n ea v = .next t) :
    (aligned ea n = false ∧ t = s.stopAt (.addressErrorStore ea)) ∨
      (aligned ea n = true ∧ storeLane s ea (Lane.whole ea n) v = .next t) := by
  unfold storeAligned at h
  split at h
  · next ha => exact .inr ⟨ha, h⟩
  · next ha => exact .inl ⟨by simpa using ha, by simpa [State.raise] using h.symm⟩

/-- A load whose bytes may all be read. -/
theorem loadLane_eq {s : State} {rt : RegIdx} {ea : Addr} {l : Lane} {post : DWord → DWord}
    (h : accessFault s.config .load (l.addrs s.config.bigEndian) ea = none) :
    loadLane s rt ea l post = .next ((s.accessed.setReg rt (post (s.readLane l))).retire .next) := by
  simp [loadLane, h]

/-- A store whose bytes may all be written. -/
theorem storeLane_eq {s : State} {ea : Addr} {l : Lane} {v : DWord}
    (h : accessFault s.config .store (l.addrs s.config.bigEndian) ea = none) :
    storeLane s ea l v = .next ((s.accessed.writeLane l v).retire .next) := by
  simp [storeLane, h]

/-! ### Load linked and store conditional -/

/-- A load linked stops at its alignment or its address check, or loads and begins its sequence. -/
theorem loadLinked_next {s t : State} {w : LinkWidth} {rt : RegIdx} {ea : Addr} {post : DWord → DWord}
    (h : loadLinked s w rt ea post = .next t) :
    (aligned ea (linkBytes w) = false ∧ t = s.stopAt (.addressErrorLoad ea)) ∨
      (∃ e, accessFault s.config .load ((Lane.whole ea (linkBytes w)).addrs s.config.bigEndian) ea = some e ∧
        t = s.stopAt e) ∨
      (aligned ea (linkBytes w) = true ∧
        accessFault s.config .load ((Lane.whole ea (linkBytes w)).addrs s.config.bigEndian) ea = none ∧
        t = ((s.linked w ea).setReg rt (post (s.readLane (Lane.whole ea (linkBytes w))))).retire .next) := by
  unfold loadLinked at h
  simp only at h
  split at h
  · next ha =>
    split at h
    · next e he => exact .inr (.inl ⟨e, he, by simpa [State.raise] using h.symm⟩)
    · next he => exact .inr (.inr ⟨ha, he, by simpa using h.symm⟩)
  · next ha => exact .inl ⟨by simpa using ha, by simpa [State.raise] using h.symm⟩

/-- The state after a store conditional's draws and its store, if it stores. -/
def State.afterChoice (s : State) (w : LinkWidth) (rt : RegIdx) (ea : Addr) : State :=
  if s.scOk w ea then s.drawn.drawn.accessed.writeLane (Lane.whole ea (linkBytes w)) (s.reg rt)
  else s.drawn.drawn.accessed

/-- A store conditional stops at its alignment or its address check, or reports whether it stored. -/
theorem storeConditional_next {s t : State} {w : LinkWidth} {rt : RegIdx} {ea : Addr}
    (h : storeConditional s w rt ea = .next t) :
    (aligned ea (linkBytes w) = false ∧ t = s.stopAt (.addressErrorStore ea)) ∨
      (∃ e, accessFault s.config .store ((Lane.whole ea (linkBytes w)).addrs s.config.bigEndian) ea = some e ∧
        t = s.stopAt e) ∨
      (aligned ea (linkBytes w) = true ∧
        accessFault s.config .store ((Lane.whole ea (linkBytes w)).addrs s.config.bigEndian) ea = none ∧
        t = (((s.afterChoice w rt ea).withLLbit s.drawn.anyBit).setReg rt (boolValue (s.scOk w ea))).retire .next) := by
  unfold storeConditional at h
  simp only at h
  split at h
  · next ha =>
    split at h
    · next e he => exact .inr (.inl ⟨e, he, by simpa [State.raise] using h.symm⟩)
    · next he => exact .inr (.inr ⟨ha, he, (Host.Outcome.next.inj h).symm⟩)
  · next ha => exact .inl ⟨by simpa using ha, by simpa [State.raise] using h.symm⟩

/-! ### Jumps and branches -/

/-- A jump or branch that answers a next state is not in a delay slot. -/
theorem outsideSlot_next {s t : State} {k : Result} (h : outsideSlot s k = .next t) :
    s.inDelaySlot = false ∧ k = .next t := by
  unfold outsideSlot at h
  split at h
  · simp at h
  · next hs => exact ⟨by simpa using hs, h⟩

/-- Outside a delay slot a jump or branch does as its rule says. -/
theorem outsideSlot_eq {s : State} (h : s.inDelaySlot = false) (k : Result) : outsideSlot s k = k := by
  simp [outsideSlot, h]

/-- A linking branch that answers a next state is not in a delay slot and does not test its link register. -/
theorem linkingBranch_next {s t : State} {rs : RegIdx} {k : State → Result} (h : linkingBranch s rs k = .next t) :
    s.inDelaySlot = false ∧ rs ≠ 31 ∧ k (s.setReg 31 s.linkValue) = .next t := by
  obtain ⟨hs, h⟩ := outsideSlot_next h
  split at h
  · simp at h
  · next hr => exact ⟨hs, hr, h⟩

/-- A linking branch outside a delay slot, on a register that is not the link register. -/
theorem linkingBranch_eq {s : State} {rs : RegIdx} (h : s.inDelaySlot = false) (hr : rs ≠ 31) (k : State → Result) :
    linkingBranch s rs k = k (s.setReg 31 s.linkValue) := by
  rw [linkingBranch, outsideSlot_eq h, if_neg hr]

/-! ### HI and LO -/

/-- Guarded destinations becoming any value leave alone everything but the general registers, the windows of reads and the
count of draws. -/
theorem State.clobber_cases (s : State) (r : Option RegIdx) :
    s.clobber r = s ∨ ∃ i, r = some i ∧ s.clobber r = s.setRegAny i := by
  cases r with
  | none => exact .inl rfl
  | some i => exact .inr ⟨i, rfl, rfl⟩

/-- The guard test before a write of HI passes with no guard, or with the guarded destinations any value. -/
theorem guardHi_next {s t : State} {k : State → Result} (h : guardHi s k = .next t) :
    (s.hiGuard = 0 ∧ k s = .next t) ∨
      (s.hiGuard ≠ 0 ∧ s.config.hiLoHazard = .destinationAny ∧ k (s.clobberReads s.hiReads) = .next t) := by
  unfold guardHi at h
  split at h
  · next hg => exact .inl ⟨hg, h⟩
  · next hg =>
    cases hz : s.config.hiLoHazard with
    | refuse => rw [hz] at h; simp at h
    | destinationAny => rw [hz] at h; exact .inr ⟨hg, rfl, h⟩

/-- The guard test before a write of LO passes with no guard, or with the guarded destinations any value. -/
theorem guardLo_next {s t : State} {k : State → Result} (h : guardLo s k = .next t) :
    (s.loGuard = 0 ∧ k s = .next t) ∨
      (s.loGuard ≠ 0 ∧ s.config.hiLoHazard = .destinationAny ∧ k (s.clobberReads s.loReads) = .next t) := by
  unfold guardLo at h
  split at h
  · next hg => exact .inl ⟨hg, h⟩
  · next hg =>
    cases hz : s.config.hiLoHazard with
    | refuse => rw [hz] at h; simp at h
    | destinationAny => rw [hz] at h; exact .inr ⟨hg, rfl, h⟩

/-- With no guard a write of HI goes on. -/
theorem guardHi_eq {s : State} (h : s.hiGuard = 0) (k : State → Result) : guardHi s k = k s := by
  simp only [guardHi, if_pos h]

/-- With no guard a write of LO goes on. -/
theorem guardLo_eq {s : State} (h : s.loGuard = 0) (k : State → Result) : guardLo s k = k s := by
  simp only [guardLo, if_pos h]

/-- A multiply or divide completes: with the values of its result, or with any values where there is none. -/
theorem finishMulDiv_next {s t : State} {r : Option (DWord × DWord)} (h : finishMulDiv s r = .next t) :
    (∃ hi lo, r = some (hi, lo) ∧ t = (s.withHiLo hi lo).retire .next) ∨
      (r = none ∧ t = (s.drawn.drawn.withHiLo s.anyWord s.drawn.anyWord).retire .next) := by
  cases r with
  | some v =>
    obtain ⟨hi, lo⟩ := v
    refine .inl ⟨hi, lo, rfl, ?_⟩
    simp only [finishMulDiv, writeHiLo, Host.Outcome.next.injEq] at h
    exact h.symm
  | none =>
    refine .inr ⟨rfl, ?_⟩
    simp only [finishMulDiv, writeHiLoAny, writeHiLo, Host.Outcome.next.injEq] at h
    exact h.symm

/-- With no guard a multiply or divide finishes with the result of its operands. -/
theorem mulDiv_eq {s : State} (hh : s.hiGuard = 0) (hl : s.loGuard = 0) (rs rt : RegIdx)
    (f : DWord → DWord → Option (DWord × DWord)) :
    mulDiv s rs rt f = finishMulDiv s (f (s.reg rs) (s.reg rt)) := by
  rw [mulDiv, guardHi_eq hh, guardLo_eq hl]

/-! ### Coprocessors -/

/-- An operation of a coprocessor that answers a next state has raised Coprocessor Unusable. -/
theorem coprocessor_next {s t : State} {z : Fin 4} (h : coprocessor s z = .next t) :
    s.config.cu[z] = false ∧ t = s.stopAt (.coprocessorUnusable z) := by
  unfold coprocessor at h
  split at h
  · simp at h
  · next hc => exact ⟨by simpa using hc, by simpa [State.raise] using h.symm⟩

/-! ### One step -/

/-- Everything a step can do when it answers a next state: it stops at the fetch, or runs the instruction fetched. -/
theorem step_next {s t : State} (h : step s = .next t) :
    s.exc = none ∧
      ((aligned s.pc 4 = false ∧ t = s.stopAt (.addressErrorLoad s.pc)) ∨
        (aligned s.pc 4 = true ∧ ∃ e, accessFault s.config .fetch s.fetchAddrs s.pc = some e ∧ t = s.stopAt e) ∨
        (aligned s.pc 4 = true ∧ accessFault s.config .fetch s.fetchAddrs s.pc = none ∧ s.fetchStored = false ∧
          ∃ i, s.fetched = .ok i ∧ exec i s = .next t)) := by
  unfold step fetchAndRun at h
  split at h
  · simp at h
  · next hx =>
    refine ⟨by simpa using hx, ?_⟩
    split at h
    · next ha => exact .inl ⟨by simpa using ha, by simpa [State.raise] using h.symm⟩
    · next ha =>
      have ha : aligned s.pc 4 = true := by simpa using ha
      split at h
      · next e he => exact .inr (.inl ⟨ha, e, he, by simpa [State.raise] using h.symm⟩)
      · next he =>
        split at h
        · simp at h
        · next hs =>
          split at h
          · next i hi => exact .inr (.inr ⟨ha, he, by simpa using hs, i, hi, h⟩)
          · simp at h

end Sys2Proof.Machine
end

