-- ==== Sys2Proof/Laws/Claims.lean ====
section
/-! SUPPORT. The shared operations in the terms claims are stated in: an instruction whose meaning is such an operation does
what the term says. -/

namespace Sys2Proof.Machine

/-! ### Guards and frames -/

/-- A guard counts down to 0. -/
@[simp] theorem guardStep_toNat (g : BitVec 2) : (guardStep g).toNat = g.toNat - 1 := by
  revert g; decide

/-- The end of an instruction counts the guards down. -/
theorem guardsCount_retire {s u : State} (f : Flow) (hh : u.hiGuard = s.hiGuard) (hl : u.loGuard = s.loGuard) :
    GuardsCount s (u.retire f) := by
  simp [GuardsCount, hh, hl]

/-- A register write and the end of an instruction change that register alone. -/
theorem onlyRegs_setReg (s : State) (rd : RegIdx) (v : DWord) (f : Flow) : OnlyRegs s ((s.setReg rd v).retire f) [rd] := by
  refine ⟨fun r hr => ?_, ⟨rfl, rfl, rfl⟩, ⟨rfl, rfl, rfl, rfl⟩, ⟨fun _ => rfl, rfl⟩, ⟨rfl, rfl⟩,
    guardsCount_retire f rfl rfl⟩
  rw [State.retire_reg, State.setReg_reg_ne _ (by simpa using hr)]

/-- The end of an instruction changes no register. -/
theorem onlyRegs_retire (s : State) (f : Flow) : OnlyRegs s (s.retire f) [] :=
  ⟨fun _ _ => rfl, ⟨rfl, rfl, rfl⟩, ⟨rfl, rfl, rfl, rfl⟩, ⟨fun _ => rfl, rfl⟩, ⟨rfl, rfl⟩, guardsCount_retire f rfl rfl⟩

/-- The value a register holds after it has been written. -/
theorem setReg_retire_reg (s : State) (rd : RegIdx) (v : DWord) (f : Flow) :
    ((s.setReg rd v).retire f).reg rd = if rd = 0 then 0 else v := by
  rw [State.retire_reg, State.setReg_reg_self]

/-! ### Results -/

/-- An instruction that writes its result. -/
theorem writes_of_writeResult {i : Instr} {s : State} {rd : RegIdx} {v : DWord} (h : exec i s = writeResult s rd v) :
    Writes i s rd v :=
  ⟨_, h, setReg_retire_reg s rd v .next, onlyRegs_setReg s rd v .next, rfl, rfl, rfl⟩

/-- An instruction that writes any value. -/
theorem writesAny_of_writeAny {i : Instr} {s u : State} {rd : RegIdx} (h : exec i s = writeAny u rd)
    (hu : u = s ∨ u = s.drawn) : WritesAny i s rd := by
  rcases hu with rfl | rfl
  · exact ⟨u.draws, le_refl _, _, h, Nat.lt_succ_self _, setReg_retire_reg u.drawn rd _ .next,
      onlyRegs_setReg u.drawn rd _ .next, rfl, rfl, rfl⟩
  · exact ⟨s.draws + 1, Nat.le_succ _, _, h, Nat.lt_succ_self _, setReg_retire_reg s.drawn.drawn rd _ .next,
      onlyRegs_setReg s.drawn.drawn rd _ .next, rfl, rfl, rfl⟩

/-- An instruction that only ends. -/
theorem doesNothing_of_retire {i : Instr} {s : State} (h : exec i s = .next (s.retire .next)) : DoesNothing i s :=
  ⟨_, h, onlyRegs_retire s .next, rfl, rfl, rfl⟩

/-- An instruction that raises an exception. -/
theorem raises_of_raise {i : Instr} {s : State} {e : Exception} (h : exec i s = s.raise e) : Raises i s e := h

/-- A conditional trap. -/
theorem traps_of_trapIf {i : Instr} {s : State} {b : Bool} {code : BitVec 10} {cond : Prop}
    (h : exec i s = trapIf s b code) (hb : b = true ↔ cond) : Traps i s cond code := by
  refine ⟨fun hc => ?_, fun hc => ?_⟩
  · rw [hb.mpr hc] at h; exact h
  · rw [Bool.eq_false_iff.mpr (mt hb.mp hc)] at h; exact doesNothing_of_retire h

/-! ### Levels -/

/-- Where 64-bit operations execute, level III is not reserved. -/
theorem reserves_III {c : Config} (h : Has64 c) : reserves c .III = false := by
  obtain ⟨hm, ho⟩ := h
  rw [reserves, ho]
  cases hc : c.isaMode <;> simp_all [modeRank]

/-- Where they do not, level III is reserved. -/
theorem reserves_III_of_not {c : Config} (h : ¬Has64 c) : reserves c .III = true := by
  unfold Has64 at h
  unfold reserves
  cases hc : c.isaMode <;> simp_all [modeRank]

/-- In mode IV, level IV is not reserved. -/
theorem reserves_IV {c : Config} (h : HasIV c) : reserves c .IV = false := by
  unfold HasIV at h
  simp [reserves, h]

/-- In the other modes, level IV is reserved. -/
theorem reserves_IV_of_not {c : Config} (h : ¬HasIV c) : reserves c .IV = true := by
  unfold HasIV at h
  unfold reserves
  cases hc : c.isaMode <;> simp_all [modeRank]

/-! ### Address checks -/

/-- The aligned test. -/
theorem aligned_iff (a : Addr) (n : Nat) : aligned a n = true ↔ a.toNat % n = 0 := by simp [aligned]

/-- The misaligned test. -/
theorem aligned_eq_false (a : Addr) (n : Nat) : aligned a n = false ↔ a.toNat % n ≠ 0 := by simp [aligned]

/-- The bytes of a whole item may all be accessed. -/
theorem accessFault_whole {c : Config} {k : AccessKind} {ea : Addr} {n : Nat} (h : Allowed c k ea n) :
    accessFault c k ((Lane.whole ea n).addrs c.bigEndian) ea = none := by
  rw [accessFault_eq_none]
  intro a ha
  obtain ⟨i, hi, rfl⟩ := (Lane.mem_whole_addrs _ _ _ _).mp ha
  exact h i hi

/-- The four bytes of a fetch are those of a whole item. -/
theorem State.mem_fetchAddrs (s : State) (a : Addr) : a ∈ s.fetchAddrs ↔ WholeItem s.pc 4 a := by
  simp only [State.fetchAddrs, List.mem_cons, List.not_mem_nil, or_false, WholeItem]
  constructor
  · rintro (rfl | rfl | rfl | rfl)
    · exact ⟨0, by omega, by simp⟩
    · exact ⟨1, by omega, rfl⟩
    · exact ⟨2, by omega, rfl⟩
    · exact ⟨3, by omega, rfl⟩
  · rintro ⟨k, hk, rfl⟩
    interval_cases k
    · exact .inl (by simp)
    · exact .inr (.inl rfl)
    · exact .inr (.inr (.inl rfl))
    · exact .inr (.inr (.inr rfl))

/-- What a denied access raises. -/
theorem accessFault_denied {c : Config} {k : AccessKind} {addrs : List Addr} {moved : Addr → Prop} {ea : Addr}
    {e : Exception} (hm : ∀ a, a ∈ addrs ↔ moved a) (h : Denied c k moved ea e) : accessFault c k addrs ea = some e := by
  obtain ⟨⟨a, ha, hna⟩, h1, h2⟩ := h
  cases hf : accessFault c k addrs ea with
  | none => exact absurd ((accessFault_eq_none _ _ _ _).mp hf a ((hm a).mpr ha)) hna
  | some e' =>
    obtain ⟨_, g1, g2⟩ := accessFault_eq_some hf
    by_cases hx : ∃ a, moved a ∧ byteAnswer c.regions k a = .addressError
    · obtain ⟨b, hb, hbe⟩ := hx
      rw [g1 ⟨b, (hm b).mpr hb, hbe⟩, h1 ⟨b, hb, hbe⟩]
    · have hx : ∀ a, moved a → byteAnswer c.regions k a ≠ .addressError := fun a ha he => hx ⟨a, ha, he⟩
      rw [g2 fun a ha => hx a ((hm a).mp ha), h2 hx]

/-! ### Values of items -/

/-- Digits in base 256, added up. -/
theorem ofDigits_range (n : Nat) (f : Nat → Nat) :
    Nat.ofDigits 256 ((List.range n).map f) = ((List.range n).map fun i => f i * 256 ^ i).sum := by
  induction n with
  | zero => rfl
  | succ n ih =>
    rw [List.range_succ, List.map_append, List.map_append, List.sum_append, Nat.ofDigits_append, ih]
    simp [Nat.mul_comm]

/-- `MemRead` has the bytes of the item as digits, by rising significance. -/
theorem memValue_digits (s : State) (ea : Addr) (n : Nat) :
    memValue s ea n =
      Nat.ofDigits 256 ((List.range n).map fun i => (s.byteAt (sigAddr s.config.bigEndian ea n i)).toNat) := by
  rw [ofDigits_range, memValue]
  cases hb : s.config.bigEndian
  · simp [sigAddr_eq, byteRank, hb]
  · rw [← List.sum_reverse, ← List.map_reverse]
    have hrev : (List.range n).reverse = (List.range n).map fun i => n - 1 - i := by
      apply List.ext_getElem <;> simp
    rw [hrev, List.map_map]
    congr 1
    apply List.map_congr_left
    intro i hi
    have hi := List.mem_range.mp hi
    simp only [Function.comp, sigAddr_eq, byteRank, hb, if_true]
    rw [show n - 1 - (n - 1 - i) = i by omega]

/-- The value of a whole item is `MemRead`. -/
theorem readLane_whole (s : State) (ea : Addr) {n : Nat} (hn : n ≤ 8) :
    (s.readLane (Lane.whole ea n)).toNat = memValue s ea n := by
  rw [State.readLane_toNat s _ hn, memValue_digits]
  simp [Lane.whole]

/-! ### Conditions and values -/

/-- The word-value test. -/
theorem isWordValue_iff (v : DWord) : isWordValue v = true ↔ IsWord v := by
  unfold isWordValue
  exact decide_eq_true_iff

/-- The word-value test fails. -/
theorem isWordValue_eq_false (v : DWord) : isWordValue v = false ↔ ¬IsWord v := by
  rw [← isWordValue_iff, Bool.not_eq_true]

/-- A word value is the signed integer of its low word. -/
theorem IsWord.toInt_low {v : DWord} (h : IsWord v) : (low32 v).toInt = v.toInt := by
  conv_rhs => rw [h]
  exact (BitVec.toInt_signExtend_of_le (by decide)).symm

/-- Sign extension keeps the signed integer. -/
theorem sext32_eq_ofInt (w : Word) : sext32 w = BitVec.ofInt 64 w.toInt := by
  apply BitVec.eq_of_toInt_eq
  have h1 := w.le_toInt
  have h2 := w.toInt_lt
  rw [sext32, BitVec.toInt_signExtend_of_le (by decide), BitVec.toInt_ofInt, Int.bmod_eq_of_le] <;> omega

/-- The sign-extended immediate as a signed integer. -/
theorem signImm_toInt (imm : BitVec 16) : (signImm imm).toInt = imm.toInt :=
  BitVec.toInt_signExtend_of_le (by decide)

/-- The sign-extended immediate of a word operation as a signed integer. -/
theorem signImm32_toInt (imm : BitVec 16) : (signImm32 imm).toInt = imm.toInt :=
  BitVec.toInt_signExtend_of_le (by decide)

/-- The signed comparison. -/
theorem ltSigned_iff (a b : DWord) : ltSigned a b = true ↔ a.toInt < b.toInt := by
  unfold ltSigned
  exact decide_eq_true_iff

/-- The unsigned comparison. -/
theorem ltUnsigned_iff (a b : DWord) : ltUnsigned a b = true ↔ a.toNat < b.toNat := by
  unfold ltUnsigned
  exact decide_eq_true_iff

/-- The test of equality. -/
theorem equal_iff (a b : DWord) : equal a b = true ↔ a = b := by
  unfold equal
  exact decide_eq_true_iff

/-- The negation of a test. -/
theorem not_iff_of_iff {b : Bool} {p q : Prop} (h : b = true ↔ p) (hq : q ↔ ¬p) : (!b) = true ↔ q := by
  rw [hq, ← h]; cases b <;> simp

end Sys2Proof.Machine
end

