-- ==== Sys2Proof/Laws/Access.lean ====
section
/-! SUPPORT. Loads and stores in the terms claims are stated in: what a lane reads as a number, what an instruction whose
meaning is a load or a store of a lane does, and the merges of the unaligned loads as arithmetic. -/

namespace Sys2Proof.Machine

/-! ### Which bytes -/

/-- The bytes of the left lane are those an L instruction moves. -/
theorem mem_left_addrs (c : Config) (ea : Addr) {n : Nat} (hn : 0 < n) (a : Addr) :
    a ∈ (leftLane c.bigEndian ea n).addrs c.bigEndian ↔ PartOfItem ea n (InLeft c ea n) a := by
  rw [Lane.mem_addrs]
  have hm := Nat.mod_lt ea.toNat hn
  simp only [leftLane, sigOf, sigAddr_eq, PartOfItem, InLeft]
  cases c.bigEndian <;> simp only [Bool.false_eq_true, if_false, if_true]
  · exact ⟨fun ⟨i, hi, h⟩ => ⟨0 + i, ⟨by omega, by omega⟩, h⟩,
      fun ⟨k, hk, h⟩ => ⟨k, by omega, by rw [Nat.zero_add]; exact h⟩⟩
  · exact ⟨fun ⟨i, hi, h⟩ => ⟨n - 1 - (0 + i), ⟨by omega, by omega⟩, h⟩,
      fun ⟨k, hk, h⟩ => ⟨n - 1 - k, by omega, by rw [h]; congr 2; omega⟩⟩

/-- The bytes of the right lane are those an R instruction moves. -/
theorem mem_right_addrs (c : Config) (ea : Addr) {n : Nat} (hn : 0 < n) (a : Addr) :
    a ∈ (rightLane c.bigEndian ea n).addrs c.bigEndian ↔ PartOfItem ea n (InRight c ea n) a := by
  rw [Lane.mem_addrs]
  have hm := Nat.mod_lt ea.toNat hn
  simp only [rightLane, sigOf, sigAddr_eq, PartOfItem, InRight]
  cases c.bigEndian <;> simp only [Bool.false_eq_true, if_false, if_true]
  · exact ⟨fun ⟨i, hi, h⟩ => ⟨_, ⟨by omega, by omega⟩, h⟩,
      fun ⟨k, hk, h⟩ => ⟨k - ea.toNat % n, by omega, by rw [h]; congr 2; omega⟩⟩
  · exact ⟨fun ⟨i, hi, h⟩ => ⟨_, ⟨by omega, by omega⟩, h⟩,
      fun ⟨k, hk, h⟩ => ⟨ea.toNat % n - k, by omega, by rw [h]; congr 2; omega⟩⟩

/-- The bytes of a part may all be accessed. -/
theorem accessFault_part {c : Config} {k : AccessKind} {ea : Addr} {n : Nat} {part : Nat → Prop} {l : Lane}
    (hl : ∀ a, a ∈ l.addrs c.bigEndian ↔ PartOfItem ea n part a) (h : AllowedPart c k ea n part) :
    accessFault c k (l.addrs c.bigEndian) ea = none := by
  rw [accessFault_eq_none]
  intro a ha
  obtain ⟨i, hi, rfl⟩ := (hl a).mp ha
  exact h i hi

/-! ### Loads -/

/-- An instruction that loads a lane. -/
theorem writes_of_loadLane {i : Instr} {s : State} {rt : RegIdx} {ea : Addr} {l : Lane} {post : DWord → DWord} {v : DWord}
    (h : exec i s = loadLane s rt ea l post)
    (hf : accessFault s.config .load (l.addrs s.config.bigEndian) ea = none) (hv : post (s.readLane l) = v) :
    Writes i s rt v := by
  rw [loadLane_eq hf, hv] at h
  exact ⟨_, h, setReg_retire_reg _ _ _ _, onlyRegs_setReg s rt v .next, rfl, rfl, rfl⟩

/-- An instruction that loads an aligned item. -/
theorem writes_of_loadAligned {i : Instr} {s : State} {rt : RegIdx} {ea : Addr} {n : Nat} {post : DWord → DWord}
    {v : DWord} (h : exec i s = loadAligned s n rt ea post) (ha : ea.toNat % n = 0) (hf : Allowed s.config .load ea n)
    (hv : post (s.readLane (Lane.whole ea n)) = v) : Writes i s rt v := by
  rw [loadAligned, (aligned_iff _ _).mpr ha] at h
  exact writes_of_loadLane h (accessFault_whole hf) hv

/-- The value of a whole item, zero-extended. -/
theorem readLane_whole_eq (s : State) (ea : Addr) {n : Nat} (hn : n ≤ 8) :
    s.readLane (Lane.whole ea n) = BitVec.ofNat 64 (memValue s ea n) := by
  rw [← readLane_whole s ea hn]; simp

/-- The low bits of the value of a whole item. -/
theorem setWidth_readLane (s : State) (ea : Addr) {n : Nat} (hn : n ≤ 8) {m : Nat} (hm : m ≤ 64) :
    (s.readLane (Lane.whole ea n)).setWidth m = BitVec.ofNat m (memValue s ea n) := by
  rw [readLane_whole_eq s ea hn]
  apply BitVec.eq_of_toNat_eq
  simp only [BitVec.toNat_setWidth, BitVec.toNat_ofNat]
  exact Nat.mod_mod_of_dvd _ (Nat.pow_dvd_pow 2 hm)

/-! ### Stores -/

/-- What a store into a lane leaves unchanged. -/
theorem storeLane_frame (s : State) (l : Lane) (v : DWord) :
    let t := (s.accessed.writeLane l v).retire .next
    SameRegs s t [] ∧ SameHiLo s t ∧ SameLink s t ∧ SameRun s t ∧ GuardsCount s t ∧ Continues s t := by
  refine ⟨fun r _ => ?_, ⟨?_, ?_, ?_⟩, ⟨?_, ?_, ?_, ?_⟩, ⟨?_, ?_⟩, guardsCount_retire .next ?_ ?_, ?_, ?_, ?_⟩ <;>
    simp [Flow.pcAfter, Flow.npcAfter, Flow.slotAfter]

/-- The byte at a place of an item stored whole. -/
theorem writeLane_whole_at (s : State) (ea : Addr) {n : Nat} (hn : n ≤ 8) (v : DWord) {k : Nat} (hk : k < n) :
    (s.writeLane (Lane.whole ea n) v).byteAt (ea + BitVec.ofNat 64 k) =
      BitVec.ofNat 8 (v.toNat / 256 ^ byteRank s.config n k) := by
  have hr : byteRank s.config n k < n := by unfold byteRank; split <;> omega
  have h := State.writeLane_byteAt_at s (Lane.whole ea n) v (by simp only [Lane.whole]; omega) (by simp [Lane.whole]) hr
  rw [← byteOf_eq, ← h]
  congr 1
  simp only [Lane.whole, sigAddr_eq, byteRank]
  cases s.config.bigEndian <;> simp
  congr 2; omega

/-- A byte outside an item stored whole. -/
theorem writeLane_whole_other (s : State) (ea : Addr) (n : Nat) (v : DWord) {b : Addr} (hb : ¬WholeItem ea n b) :
    (s.writeLane (Lane.whole ea n) v).byteAt b = s.byteAt b := by
  refine State.writeLane_byteAt_other _ _ _ fun i hi he => hb ?_
  simp only [Lane.whole, sigAddr_eq] at hi he
  exact ⟨_, by split <;> omega, he⟩

/-- The addresses stored to after an item is stored whole. -/
theorem writeLane_whole_stored (s : State) (ea : Addr) (n : Nat) (v : DWord) (b : Addr) :
    b.toNat ∈ (s.writeLane (Lane.whole ea n) v).stored ↔ b.toNat ∈ s.stored ∨ WholeItem ea n b := by
  rw [State.writeLane_stored]
  refine or_congr_right ⟨?_, ?_⟩
  · rintro ⟨i, hi, he⟩
    refine ⟨_, ?_, (BitVec.eq_of_toNat_eq he).symm⟩
    simp only [Lane.whole] at hi ⊢; split <;> omega
  · rintro ⟨k, hk, rfl⟩
    refine ⟨byteRank s.config n k, by simp only [Lane.whole, byteRank]; split <;> omega, ?_⟩
    simp only [Lane.whole, sigAddr_eq, byteRank]
    cases s.config.bigEndian <;> simp
    congr 2; omega

/-- An instruction that stores a whole item. -/
theorem stores_of_storeLane {i : Instr} {s : State} {ea : Addr} {n : Nat} {v : DWord}
    (h : exec i s = storeLane s ea (Lane.whole ea n) v) (hn : n ≤ 8) (hf : Allowed s.config .store ea n) :
    Stores i s ea n v := by
  rw [storeLane_eq (accessFault_whole hf)] at h
  refine ⟨_, h, fun k hk => writeLane_whole_at s.accessed ea hn v hk, fun b hb => ?_,
    fun b => writeLane_whole_stored s.accessed ea n v b, storeLane_frame s _ v⟩
  exact writeLane_whole_other s.accessed ea n v fun ⟨k, hk, he⟩ => hb k hk he

/-- An instruction that stores an aligned item. -/
theorem stores_of_storeAligned {i : Instr} {s : State} {ea : Addr} {n : Nat} {v : DWord}
    (h : exec i s = storeAligned s n ea v) (ha : ea.toNat % n = 0) (hn : n ≤ 8) (hf : Allowed s.config .store ea n) :
    Stores i s ea n v := by
  rw [storeAligned, (aligned_iff _ _).mpr ha] at h
  exact stores_of_storeLane h hn hf

/-! ### Parts of items as numbers -/

/-- The value of a part of an item: quotient and remainder of the item's value. -/
theorem readLane_part (s : State) (ea : Addr) {n low count : Nat} (h : low + count ≤ n) (hn : n ≤ 8) :
    (s.readLane ⟨ea, n, low, count⟩).toNat = memValue s ea n / 256 ^ low % 256 ^ count := by
  rw [State.readLane_toNat s _ (by simp only; omega), memValue_digits]
  set f : Nat → Nat := fun i => (s.byteAt (sigAddr s.config.bigEndian ea n i)).toNat with hf
  have hlt : ∀ x ∈ (List.range n).map f, x < 256 := by
    intro x hx
    obtain ⟨i, _, rfl⟩ := List.mem_map.mp hx
    exact (s.byteAt _).isLt
  rw [Nat.ofDigits_div_pow_eq_ofDigits_drop low (by decide) _ hlt,
    Nat.ofDigits_mod_pow_eq_ofDigits_take count (by decide) _ fun x hx => hlt x (List.mem_of_mem_drop hx)]
  congr 1
  apply List.ext_getElem
  · simp; omega
  · intro i h1 h2; simp [hf]

/-- The value of an item fits its size. -/
theorem memValue_lt (s : State) (a : Addr) (n : Nat) : memValue s a n < 256 ^ n := by
  rw [memValue_digits]
  have h := Nat.ofDigits_lt_base_pow_length (b := 256) (by decide)
    (l := (List.range n).map fun i => (s.byteAt (sigAddr s.config.bigEndian a n i)).toNat) fun x hx => by
      obtain ⟨i, _, rfl⟩ := List.mem_map.mp hx
      exact (s.byteAt _).isLt
  simpa using h

/-- The significance of a byte in its item. -/
theorem bytePos_lt (c : Config) (ea : Addr) {n : Nat} (hn : 0 < n) : bytePos c ea n < n := by
  unfold bytePos byteRank
  have := Nat.mod_lt ea.toNat hn
  split <;> omega

/-! ### The merges of the unaligned loads (42_load_store.md R172 to R175) -/

/-- The low bits of a value. -/
theorem mask_and {n : Nat} (v : BitVec n) (k : Nat) (hk : k < n) :
    (v &&& ((1#n <<< k) - 1#n)).toNat = v.toNat % 2 ^ k := by
  have hp : 2 ^ k < 2 ^ n := Nat.pow_lt_pow_right (by decide) hk
  have hone : (1#n).toNat = 1 := by rw [BitVec.toNat_ofNat]; exact Nat.mod_eq_of_lt (Nat.one_lt_two_pow (by omega))
  have h2 : (1#n <<< k).toNat = 2 ^ k := by
    rw [BitVec.toNat_shiftLeft, hone, Nat.shiftLeft_eq, Nat.one_mul]
    exact Nat.mod_eq_of_lt hp
  have h1 : ((1#n <<< k) - 1#n).toNat = 2 ^ k - 1 := by
    rw [BitVec.toNat_sub_of_le (by rw [BitVec.le_def, h2, hone]; exact Nat.one_le_two_pow), h2, hone]
  rw [BitVec.toNat_and, h1, Nat.and_two_pow_sub_one_eq_mod]

/-- Two parts that do not overlap, joined. -/
theorem or_eq_add (k p m : Nat) (hm : m < 2 ^ k) : p * 2 ^ k ||| m = p * 2 ^ k + m := by
  rw [← Nat.shiftLeft_eq, Nat.shiftLeft_add_eq_or_of_lt hm]

/-- The bytes loaded on the left and the bits kept on the right fit. -/
theorem left_lt {x y a b n : Nat} (h : a + b = n) : x % 2 ^ a * 2 ^ b + y % 2 ^ b < 2 ^ n := by
  have h1 := Nat.mod_lt x (y := 2 ^ a) (by positivity)
  have h2 := Nat.mod_lt y (y := 2 ^ b) (by positivity)
  rw [← h, Nat.pow_add]
  calc _ < x % 2 ^ a * 2 ^ b + 2 ^ b := by omega
    _ = (x % 2 ^ a + 1) * 2 ^ b := by ring
    _ ≤ _ := Nat.mul_le_mul_right _ h1

/-- A power of 256 is one of 2. -/
theorem pow256 (b : Nat) : (256 : Nat) ^ b = 2 ^ (8 * b) := by rw [Nat.pow_mul]

/-- LWL's merge. -/
theorem mergeLeft32_eq {b : Nat} (hb : b < 4) (old part : DWord) {word : Nat}
    (hp : part.toNat = word % 256 ^ (b + 1)) :
    mergeLeft32 b old part =
      sextWord (BitVec.ofNat 32 (word % 2 ^ (8 * b + 8) * 2 ^ (24 - 8 * b) + old.toNat % 2 ^ (24 - 8 * b))) := by
  rw [pow256, show 8 * (b + 1) = 8 * b + 8 by ring] at hp
  have h1 : word % 2 ^ (8 * b + 8) < 2 ^ 32 :=
    lt_of_lt_of_le (Nat.mod_lt _ (by positivity)) (Nat.pow_le_pow_right (by decide) (by omega))
  have h3 : word % 2 ^ (8 * b + 8) * 2 ^ (24 - 8 * b) + old.toNat % 2 ^ (24 - 8 * b) < 2 ^ 32 := left_lt (by omega)
  have h4 := Nat.mod_lt old.toNat (y := 2 ^ (24 - 8 * b)) (by positivity)
  have h5 : old.toNat % 2 ^ 32 % 2 ^ (24 - 8 * b) = old.toNat % 2 ^ (24 - 8 * b) :=
    Nat.mod_mod_of_dvd _ (Nat.pow_dvd_pow 2 (by omega))
  simp only [mergeLeft32]
  rw [sextWord, sext32]
  congr 1
  apply BitVec.eq_of_toNat_eq
  rw [BitVec.toNat_or, mask_and _ _ (by omega), BitVec.toNat_shiftLeft, Nat.shiftLeft_eq]
  simp only [low32, BitVec.toNat_setWidth, BitVec.toNat_ofNat]
  rw [hp, Nat.mod_eq_of_lt h1, h5, Nat.mod_eq_of_lt h3, Nat.mod_eq_of_lt (by omega), or_eq_add _ _ _ h4]

/-- LDL's merge. -/
theorem mergeLeft64_eq {b : Nat} (hb : b < 8) (old part : DWord) {dword : Nat}
    (hp : part.toNat = dword % 256 ^ (b + 1)) :
    mergeLeft64 b old part =
      BitVec.ofNat 64 (dword % 2 ^ (8 * b + 8) * 2 ^ (56 - 8 * b) + old.toNat % 2 ^ (56 - 8 * b)) := by
  rw [pow256, show 8 * (b + 1) = 8 * b + 8 by ring] at hp
  have h3 : dword % 2 ^ (8 * b + 8) * 2 ^ (56 - 8 * b) + old.toNat % 2 ^ (56 - 8 * b) < 2 ^ 64 := left_lt (by omega)
  have h4 := Nat.mod_lt old.toNat (y := 2 ^ (56 - 8 * b)) (by positivity)
  simp only [mergeLeft64]
  apply BitVec.eq_of_toNat_eq
  rw [BitVec.toNat_or, mask_and _ _ (by omega), BitVec.toNat_shiftLeft, Nat.shiftLeft_eq]
  simp only [BitVec.toNat_ofNat]
  rw [hp, Nat.mod_eq_of_lt h3, Nat.mod_eq_of_lt (by omega), or_eq_add _ _ _ h4]

/-- The bytes loaded on the right fit what they replace. -/
theorem right_lt {word n b : Nat} (hb : 8 * b ≤ n) (hw : word < 2 ^ n) : word / 2 ^ (8 * b) < 2 ^ (n - 8 * b) := by
  rw [Nat.div_lt_iff_lt_mul (by positivity), ← Nat.pow_add, show n - 8 * b + 8 * b = n by omega]
  exact hw

/-- LWR's merge. -/
theorem mergeRightWord_eq {b : Nat} (hb : b < 4) (old part : DWord) {word : Nat} (hw : word < 2 ^ 32)
    (hp : part.toNat = word / 256 ^ b % 256 ^ (4 - b)) :
    mergeRightWord b old part =
      BitVec.ofNat 32 (old.toNat % 2 ^ 32 / 2 ^ (32 - 8 * b) * 2 ^ (32 - 8 * b) + word / 2 ^ (8 * b)) := by
  have hlt := right_lt (b := b) (by omega) hw
  rw [pow256, pow256, show 8 * (4 - b) = 32 - 8 * b by omega, Nat.mod_eq_of_lt hlt] at hp
  have hle : old.toNat % 2 ^ 32 / 2 ^ (32 - 8 * b) * 2 ^ (32 - 8 * b) ≤ old.toNat % 2 ^ 32 := Nat.div_mul_le_self _ _
  have hmod := Nat.mod_lt old.toNat (y := 2 ^ 32) (by positivity)
  have h2 : word / 2 ^ (8 * b) < 2 ^ 32 := lt_of_le_of_lt (Nat.div_le_self _ _) hw
  have hor := or_eq_add (32 - 8 * b) (old.toNat % 2 ^ 32 / 2 ^ (32 - 8 * b)) _ hlt
  have hlt2 : old.toNat % 2 ^ 32 / 2 ^ (32 - 8 * b) * 2 ^ (32 - 8 * b) + word / 2 ^ (8 * b) < 2 ^ 32 := by
    rw [← hor]; exact Nat.or_lt_two_pow (by omega) h2
  simp only [mergeRightWord]
  apply BitVec.eq_of_toNat_eq
  rw [BitVec.toNat_or, BitVec.toNat_shiftLeft, BitVec.toNat_ushiftRight, Nat.shiftLeft_eq, Nat.shiftRight_eq_div_pow]
  simp only [low32, BitVec.toNat_setWidth, BitVec.toNat_ofNat]
  rw [hp, Nat.mod_eq_of_lt hlt2, Nat.mod_eq_of_lt (b := 2 ^ 32) h2, Nat.mod_eq_of_lt (b := 2 ^ 32) (by omega), hor]

/-- LDR's merge. -/
theorem mergeRight64_eq {b : Nat} (hb : b < 8) (old part : DWord) {dword : Nat} (hw : dword < 2 ^ 64)
    (hp : part.toNat = dword / 256 ^ b % 256 ^ (8 - b)) :
    mergeRight64 b old part =
      BitVec.ofNat 64 (old.toNat / 2 ^ (64 - 8 * b) * 2 ^ (64 - 8 * b) + dword / 2 ^ (8 * b)) := by
  have hlt := right_lt (b := b) (by omega) hw
  rw [pow256, pow256, show 8 * (8 - b) = 64 - 8 * b by omega, Nat.mod_eq_of_lt hlt] at hp
  have hle : old.toNat / 2 ^ (64 - 8 * b) * 2 ^ (64 - 8 * b) ≤ old.toNat := Nat.div_mul_le_self _ _
  have hmod := old.isLt
  have h2 : dword / 2 ^ (8 * b) < 2 ^ 64 := lt_of_le_of_lt (Nat.div_le_self _ _) hw
  have hor := or_eq_add (64 - 8 * b) (old.toNat / 2 ^ (64 - 8 * b)) _ hlt
  have hlt2 : old.toNat / 2 ^ (64 - 8 * b) * 2 ^ (64 - 8 * b) + dword / 2 ^ (8 * b) < 2 ^ 64 := by
    rw [← hor]; exact Nat.or_lt_two_pow (by omega) h2
  simp only [mergeRight64]
  apply BitVec.eq_of_toNat_eq
  rw [BitVec.toNat_or, BitVec.toNat_shiftLeft, BitVec.toNat_ushiftRight, Nat.shiftLeft_eq, Nat.shiftRight_eq_div_pow]
  simp only [BitVec.toNat_ofNat]
  rw [hp, Nat.mod_eq_of_lt hlt2, Nat.mod_eq_of_lt (b := 2 ^ 64) (by omega), hor]

/-! ### Stores of parts (42_load_store.md R176 to R179) -/

/-- Bytes of two values are the same where the numbers agree. -/
theorem byteOf_congr {v w : DWord} {i j : Nat} (h : v.toNat / 256 ^ i % 256 = w.toNat / 256 ^ j % 256) :
    byteOf v i = byteOf w j := by
  rw [byteOf_eq, byteOf_eq]
  apply BitVec.eq_of_toNat_eq
  rw [BitVec.toNat_ofNat, BitVec.toNat_ofNat]; exact h

/-- The bytes SWL stores. -/
theorem byteOf_storedLeft32 {b j : Nat} (hj : j ≤ b) (hb : b < 4) (v : DWord) :
    byteOf (storedLeft32 b v) j = byteOf v (j + (3 - b)) := by
  apply byteOf_congr
  simp only [storedLeft32, low32, BitVec.toNat_setWidth, BitVec.toNat_ushiftRight, Nat.shiftRight_eq_div_pow]
  interval_cases b <;> interval_cases j <;> norm_num <;> omega

/-- The bytes SDL stores. -/
theorem byteOf_storedLeft64 {b j : Nat} (hb : b < 8) (v : DWord) :
    byteOf (storedLeft64 b v) j = byteOf v (j + (7 - b)) := by
  apply byteOf_congr
  simp only [storedLeft64, BitVec.toNat_ushiftRight, Nat.shiftRight_eq_div_pow]
  rw [Nat.div_div_eq_div_mul, pow256, pow256, ← Nat.pow_add, show 56 - 8 * b + 8 * j = 8 * (j + (7 - b)) by omega]

/-- A place of the left part, by significance. -/
theorem place_left {c : Config} {ea : Addr} {n k : Nat} (h : InLeft c ea n k) :
    byteRank c n k ≤ bytePos c ea n ∧
      itemOf ea n + BitVec.ofNat 64 k = sigAddr c.bigEndian (itemOf ea n) n (0 + byteRank c n k) := by
  obtain ⟨h1, h2⟩ := h
  refine ⟨?_, ?_⟩
  · unfold bytePos byteRank; split <;> simp_all; omega
  · rw [sigAddr_eq]; unfold byteRank; cases c.bigEndian <;> simp; congr 2; omega

/-- A place of the right part, by significance. -/
theorem place_right {c : Config} {ea : Addr} {n k : Nat} (h : InRight c ea n k) :
    bytePos c ea n ≤ byteRank c n k ∧ byteRank c n k < n ∧
      itemOf ea n + BitVec.ofNat 64 k =
        sigAddr c.bigEndian (itemOf ea n) n (bytePos c ea n + (byteRank c n k - bytePos c ea n)) := by
  obtain ⟨h1, h2⟩ := h
  have h3 : bytePos c ea n ≤ byteRank c n k := by unfold bytePos byteRank; split <;> simp_all; omega
  refine ⟨h3, ?_, ?_⟩
  · unfold byteRank; split <;> omega
  · rw [Nat.add_sub_cancel' h3, sigAddr_eq]; unfold byteRank; cases c.bigEndian <;> simp; congr 2; omega

/-- An instruction that stores a part of an item. -/
theorem storesPart_of_storeLane {i : Instr} {s : State} {ea : Addr} {n : Nat} {part : Nat → Prop} {rank : Nat → Nat}
    {l : Lane} {v w : DWord} (h : exec i s = storeLane s ea l v) (hn : n ≤ 2 ^ 64)
    (hp : AllowedPart s.config .store ea n part)
    (hl : ∀ a, a ∈ l.addrs s.config.bigEndian ↔ PartOfItem ea n part a) (hs : l.size = n) (hc : l.low + l.count ≤ n)
    (hb : ∀ k, part k → ∃ j, j < l.count ∧
      itemOf ea n + BitVec.ofNat 64 k = sigAddr s.config.bigEndian l.item l.size (l.low + j) ∧
      byteOf v j = byteOf w (rank k)) :
    StoresPart i s ea n part rank w := by
  rw [storeLane_eq (accessFault_part hl hp)] at h
  refine ⟨_, h, fun k hk => ?_, fun b hb => ?_, fun b => ?_, storeLane_frame s _ v⟩
  · obtain ⟨j, hj, he, hv⟩ := hb k hk
    rw [State.retire_byteAt, ← byteOf_eq, he, ← hv]
    exact State.writeLane_byteAt_at s.accessed l v (by omega) (by omega) hj
  · rw [State.retire_byteAt]
    refine State.writeLane_byteAt_other s.accessed l v fun i hi he => ?_
    obtain ⟨k, hk, e⟩ := (hl b).mp ((Lane.mem_addrs _ _ _).mpr ⟨i, hi, he⟩)
    exact hb k hk e
  · rw [State.retire_stored, State.writeLane_stored]
    refine or_congr_right ?_
    rw [← PartOfItem, ← hl, Lane.mem_addrs]
    exact exists_congr fun i => and_congr_right fun _ =>
      ⟨fun h => (BitVec.eq_of_toNat_eq h).symm, fun h => by rw [h]; rfl⟩

/-! ### Items -/

/-- An address is its item's and its place in it. -/
theorem itemOf_add (ea : Addr) (n : Nat) : itemOf ea n + BitVec.ofNat 64 (ea.toNat % n) = ea := by
  simp [itemOf]

/-- Places added. -/
theorem add_ofNat_add (a : Addr) (k i : Nat) :
    a + BitVec.ofNat 64 k + BitVec.ofNat 64 i = a + BitVec.ofNat 64 (k + i) := by
  rw [BitVec.add_assoc, ← BitVec.ofNat_add]

/-- The place of an address in its item. -/
theorem add_ofNat_mod {a : Addr} {n : Nat} (ha : a.toNat % n = 0) (hd : n ∣ 2 ^ 64) (k : Nat) :
    (a + BitVec.ofNat 64 k).toNat % n = k % n := by
  rw [BitVec.toNat_add, BitVec.toNat_ofNat, Nat.mod_mod_of_dvd _ hd, Nat.add_mod, ha, Nat.mod_mod_of_dvd _ hd]
  simp

/-- The item of an address, from an aligned one before it. -/
theorem itemOf_add_ofNat {a : Addr} {n : Nat} (ha : a.toNat % n = 0) (hd : n ∣ 2 ^ 64) (k : Nat) :
    itemOf (a + BitVec.ofNat 64 k) n = a + BitVec.ofNat 64 (k / n * n) := by
  rw [itemOf, add_ofNat_mod ha hd]
  have h : k = k / n * n + k % n := by rw [Nat.mul_comm]; exact (Nat.div_add_mod k n).symm
  conv_lhs =>
    rw [show BitVec.ofNat 64 k = BitVec.ofNat 64 (k / n * n) + BitVec.ofNat 64 (k % n) by
      rw [← BitVec.ofNat_add, ← h]]
  rw [← BitVec.add_assoc, BitVec.add_sub_cancel]

/-! ### Values read after values stored -/

/-- `MemRead` in a state with the same bytes and parameters. -/
theorem memValue_congr {s t : State} (h : ∀ a, t.byteAt a = s.byteAt a) (hc : t.config = s.config) (a : Addr) (n : Nat) :
    memValue t a n = memValue s a n := by
  simp only [memValue, h, byteRank, hc]

/-- `MemRead` of an item whose bytes are those of a value. -/
theorem memValue_of_bytes {s t : State} {ea : Addr} {n v : Nat} (hc : t.config = s.config)
    (h : ∀ k, k < n → t.byteAt (ea + BitVec.ofNat 64 k) = BitVec.ofNat 8 (v / 256 ^ byteRank s.config n k)) :
    memValue t ea n = v % 256 ^ n := by
  rw [memValue_digits]
  have hd : (List.range n).map (fun i => (t.byteAt (sigAddr t.config.bigEndian ea n i)).toNat) =
      (List.range n).map (fun i => v / 256 ^ i % 256) := by
    apply List.map_congr_left
    intro i hi
    have hi := List.mem_range.mp hi
    rw [sigAddr_eq, h _ (by split <;> omega), BitVec.toNat_ofNat, hc]
    unfold byteRank
    split
    · rw [show n - 1 - (n - 1 - i) = i by omega]
    · rfl
  rw [hd, ofDigits_range]
  clear hd h
  induction n with
  | zero => simp [Nat.mod_one]
  | succ n ih =>
    rw [List.range_succ, List.map_append, List.sum_append, ih, Nat.pow_succ, Nat.mod_mul]
    simp [Nat.mul_comm]

end Sys2Proof.Machine
end

