-- ==== Sys2Proof/Laws/Arithmetic.lean ====
section
/-! SUPPORT. Signed overflow as arithmetic on integers. -/

namespace Sys2Proof.Machine

/-! ### Signed overflow (41_alu_immediate.md R142) -/

/-- A bit as arithmetic. -/
theorem getLsbD_iff {w : Nat} (x : BitVec w) (i : Nat) : x.getLsbD i = decide (x.toNat / 2 ^ i % 2 = 1) := by
  rw [BitVec.getLsbD, Nat.testBit_eq_decide_div_mod_eq]

/-- The two top bits of a 33-bit value agree exactly when 32 bits hold it. -/
theorem fits33 (x : BitVec 33) : (x.getLsbD 32 = x.getLsbD 31 ↔ FitsWord x.toInt) ∧
    (FitsWord x.toInt → (x.setWidth 32).toInt = x.toInt) := by
  have := x.isLt
  have hd : (x.getLsbD 32 = x.getLsbD 31) ↔ (x.toNat / 2 ^ 32 % 2 = x.toNat / 2 ^ 31 % 2) := by
    rw [getLsbD_iff, getLsbD_iff, decide_eq_decide]; omega
  rw [hd, BitVec.toInt_eq_toNat_cond, BitVec.toInt_eq_toNat_cond, BitVec.toNat_setWidth, FitsWord]
  constructor
  · split <;> omega
  · split <;> split <;> omega

/-- The two top bits of a 65-bit value agree exactly when 64 bits hold it. -/
theorem fits65 (x : BitVec 65) : (x.getLsbD 64 = x.getLsbD 63 ↔ FitsDoubleword x.toInt) ∧
    (FitsDoubleword x.toInt → (x.setWidth 64).toInt = x.toInt) := by
  have := x.isLt
  have hd : (x.getLsbD 64 = x.getLsbD 63) ↔ (x.toNat / 2 ^ 64 % 2 = x.toNat / 2 ^ 63 % 2) := by
    rw [getLsbD_iff, getLsbD_iff, decide_eq_decide]; omega
  rw [hd, BitVec.toInt_eq_toNat_cond, BitVec.toInt_eq_toNat_cond, BitVec.toNat_setWidth, FitsDoubleword]
  constructor
  · split <;> omega
  · split <;> split <;> omega

/-- The 33-bit sum is exact. -/
theorem sum33_toInt (a b : Word) : (a.signExtend 33 + b.signExtend 33).toInt = a.toInt + b.toInt := by
  have := a.le_toInt
  have := a.toInt_lt
  have := b.le_toInt
  have := b.toInt_lt
  rw [BitVec.toInt_add, BitVec.toInt_signExtend_of_le (by decide), BitVec.toInt_signExtend_of_le (by decide)]
  apply Int.bmod_eq_of_le <;> omega

/-- A sum that 32 bits hold is the result. -/
theorem add32_fits {a b : Word} (h : FitsWord (a.toInt + b.toInt)) :
    ∃ v, add32 a b = some v ∧ v.toInt = a.toInt + b.toInt := by
  have hs := sum33_toInt a b
  rw [← hs] at h
  exact ⟨_, if_pos ((fits33 _).1.mpr h), ((fits33 _).2 h).trans hs⟩

/-- A sum that 32 bits do not hold overflows. -/
theorem add32_overflows {a b : Word} (h : ¬FitsWord (a.toInt + b.toInt)) : add32 a b = none := by
  rw [← sum33_toInt a b] at h
  exact if_neg (mt (fits33 _).1.mp h)

/-- The 33-bit difference is exact. -/
theorem difference33_toInt (a b : Word) : (a.signExtend 33 - b.signExtend 33).toInt = a.toInt - b.toInt := by
  have := a.le_toInt
  have := a.toInt_lt
  have := b.le_toInt
  have := b.toInt_lt
  rw [BitVec.toInt_sub, BitVec.toInt_signExtend_of_le (by decide), BitVec.toInt_signExtend_of_le (by decide)]
  apply Int.bmod_eq_of_le <;> omega

/-- A difference that 32 bits hold is the result. -/
theorem sub32_fits {a b : Word} (h : FitsWord (a.toInt - b.toInt)) :
    ∃ v, sub32 a b = some v ∧ v.toInt = a.toInt - b.toInt := by
  have hs := difference33_toInt a b
  rw [← hs] at h
  exact ⟨_, if_pos ((fits33 _).1.mpr h), ((fits33 _).2 h).trans hs⟩

/-- A difference that 32 bits do not hold overflows. -/
theorem sub32_overflows {a b : Word} (h : ¬FitsWord (a.toInt - b.toInt)) : sub32 a b = none := by
  rw [← difference33_toInt a b] at h
  exact if_neg (mt (fits33 _).1.mp h)

/-- The 65-bit sum is exact. -/
theorem sum65_toInt (a b : DWord) : (a.signExtend 65 + b.signExtend 65).toInt = a.toInt + b.toInt := by
  have := a.le_toInt
  have := a.toInt_lt
  have := b.le_toInt
  have := b.toInt_lt
  rw [BitVec.toInt_add, BitVec.toInt_signExtend_of_le (by decide), BitVec.toInt_signExtend_of_le (by decide)]
  apply Int.bmod_eq_of_le <;> omega

/-- A sum that 64 bits hold is the result. -/
theorem add64_fits {a b : DWord} (h : FitsDoubleword (a.toInt + b.toInt)) :
    ∃ v, add64 a b = some v ∧ v.toInt = a.toInt + b.toInt := by
  have hs := sum65_toInt a b
  rw [← hs] at h
  exact ⟨_, if_pos ((fits65 _).1.mpr h), ((fits65 _).2 h).trans hs⟩

/-- A sum that 64 bits do not hold overflows. -/
theorem add64_overflows {a b : DWord} (h : ¬FitsDoubleword (a.toInt + b.toInt)) : add64 a b = none := by
  rw [← sum65_toInt a b] at h
  exact if_neg (mt (fits65 _).1.mp h)

/-- The 65-bit difference is exact. -/
theorem difference65_toInt (a b : DWord) : (a.signExtend 65 - b.signExtend 65).toInt = a.toInt - b.toInt := by
  have := a.le_toInt
  have := a.toInt_lt
  have := b.le_toInt
  have := b.toInt_lt
  rw [BitVec.toInt_sub, BitVec.toInt_signExtend_of_le (by decide), BitVec.toInt_signExtend_of_le (by decide)]
  apply Int.bmod_eq_of_le <;> omega

/-- A difference that 64 bits hold is the result. -/
theorem sub64_fits {a b : DWord} (h : FitsDoubleword (a.toInt - b.toInt)) :
    ∃ v, sub64 a b = some v ∧ v.toInt = a.toInt - b.toInt := by
  have hs := difference65_toInt a b
  rw [← hs] at h
  exact ⟨_, if_pos ((fits65 _).1.mpr h), ((fits65 _).2 h).trans hs⟩

/-- A difference that 64 bits do not hold overflows. -/
theorem sub64_overflows {a b : DWord} (h : ¬FitsDoubleword (a.toInt - b.toInt)) : sub64 a b = none := by
  rw [← difference65_toInt a b] at h
  exact if_neg (mt (fits65 _).1.mp h)

end Sys2Proof.Machine
end

