-- ==== Sys2Proof/Laws/Encoding.lean ====
section
/-! SUPPORT. The fields of the instruction formats: what each field of an encoded word is, and that a word is made of its
fields (30_encoding.md R71 to R73, R78). -/

namespace Sys2Proof

/-- Concatenation as arithmetic. -/
theorem append_toNat {n m : Nat} (x : BitVec n) (y : BitVec m) : (x ++ y).toNat = x.toNat * 2 ^ m + y.toNat := by
  rw [BitVec.toNat_append, ← Nat.shiftLeft_add_eq_or_of_lt y.isLt, Nat.shiftLeft_eq]

/-- A field as arithmetic. -/
theorem field_toNat {n : Nat} (w : BitVec n) (lo len : Nat) :
    (w.extractLsb' lo len).toNat = w.toNat / 2 ^ lo % 2 ^ len := by
  rw [BitVec.extractLsb'_toNat, Nat.shiftRight_eq_div_pow]

section
variable (o : BitVec 6) (rs rt rd : RegIdx) (sa : BitVec 5) (f : BitVec 6) (imm : BitVec 16) (x : BitVec 26)
  (c : BitVec 20) (k : BitVec 10) (w : Word)

/-! ### I-type -/

@[simp] theorem opcodeF_iType : opcodeF (iType o rs rt imm) = o := by
  apply BitVec.eq_of_toNat_eq
  have := rs.isLt; have := rt.isLt; have := imm.isLt; have := o.isLt
  simp only [opcodeF, iType, field_toNat, append_toNat]; omega

@[simp] theorem rsF_iType : rsF (iType o rs rt imm) = rs := by
  apply BitVec.eq_of_toNat_eq
  have := rs.isLt; have := rt.isLt; have := imm.isLt
  simp only [rsF, iType, field_toNat, append_toNat]; omega

@[simp] theorem rtF_iType : rtF (iType o rs rt imm) = rt := by
  apply BitVec.eq_of_toNat_eq
  have := rt.isLt; have := imm.isLt
  simp only [rtF, iType, field_toNat, append_toNat]; omega

@[simp] theorem immF_iType : immF (iType o rs rt imm) = imm := by
  apply BitVec.eq_of_toNat_eq
  have := imm.isLt
  simp only [immF, iType, field_toNat, append_toNat]; omega

/-- A word is the I-type word of its fields. -/
theorem iType_fields : iType (opcodeF w) (rsF w) (rtF w) (immF w) = w := by
  apply BitVec.eq_of_toNat_eq
  have := w.isLt
  simp only [iType, opcodeF, rsF, rtF, immF, append_toNat, field_toNat]; omega

/-! ### J-type -/

@[simp] theorem opcodeF_jType : opcodeF (jType o x) = o := by
  apply BitVec.eq_of_toNat_eq
  have := x.isLt; have := o.isLt
  simp only [opcodeF, jType, field_toNat, append_toNat]; omega

@[simp] theorem indexF_jType : indexF (jType o x) = x := by
  apply BitVec.eq_of_toNat_eq
  have := x.isLt
  simp only [indexF, jType, field_toNat, append_toNat]; omega

/-- A word is the J-type word of its fields. -/
theorem jType_fields : jType (opcodeF w) (indexF w) = w := by
  apply BitVec.eq_of_toNat_eq
  have := w.isLt
  simp only [jType, opcodeF, indexF, append_toNat, field_toNat]; omega

/-! ### R-type -/

@[simp] theorem opcodeF_rType : opcodeF (rType rs rt rd sa f) = 0#6 := by
  apply BitVec.eq_of_toNat_eq
  have := rs.isLt; have := rt.isLt; have := rd.isLt; have := sa.isLt; have := f.isLt
  simp only [opcodeF, rType, field_toNat, append_toNat, BitVec.toNat_ofNat]; omega

@[simp] theorem rsF_rType : rsF (rType rs rt rd sa f) = rs := by
  apply BitVec.eq_of_toNat_eq
  have := rs.isLt; have := rt.isLt; have := rd.isLt; have := sa.isLt; have := f.isLt
  simp only [rsF, rType, field_toNat, append_toNat, BitVec.toNat_ofNat]; omega

@[simp] theorem rtF_rType : rtF (rType rs rt rd sa f) = rt := by
  apply BitVec.eq_of_toNat_eq
  have := rt.isLt; have := rd.isLt; have := sa.isLt; have := f.isLt
  simp only [rtF, rType, field_toNat, append_toNat, BitVec.toNat_ofNat]; omega

@[simp] theorem rdF_rType : rdF (rType rs rt rd sa f) = rd := by
  apply BitVec.eq_of_toNat_eq
  have := rd.isLt; have := sa.isLt; have := f.isLt
  simp only [rdF, rType, field_toNat, append_toNat, BitVec.toNat_ofNat]; omega

@[simp] theorem saF_rType : saF (rType rs rt rd sa f) = sa := by
  apply BitVec.eq_of_toNat_eq
  have := sa.isLt; have := f.isLt
  simp only [saF, rType, field_toNat, append_toNat, BitVec.toNat_ofNat]; omega

@[simp] theorem functionF_rType : functionF (rType rs rt rd sa f) = f := by
  apply BitVec.eq_of_toNat_eq
  have := f.isLt
  simp only [functionF, rType, field_toNat, append_toNat, BitVec.toNat_ofNat]; omega

/-- A word of the class SPECIAL is the R-type word of its fields. -/
theorem rType_fields (h : opcodeF w = 0#6) : rType (rsF w) (rtF w) (rdF w) (saF w) (functionF w) = w := by
  apply BitVec.eq_of_toNat_eq
  have := w.isLt
  have h := congrArg BitVec.toNat h
  simp only [opcodeF, field_toNat, BitVec.toNat_ofNat] at h
  simp only [rType, rsF, rtF, rdF, saF, functionF, append_toNat, field_toNat, BitVec.toNat_ofNat]; omega

/-! ### R-type with a code -/

@[simp] theorem opcodeF_trapType : opcodeF (trapType rs rt k f) = 0#6 := by
  apply BitVec.eq_of_toNat_eq
  have := rs.isLt; have := rt.isLt; have := k.isLt; have := f.isLt
  simp only [opcodeF, trapType, field_toNat, append_toNat, BitVec.toNat_ofNat]; omega

@[simp] theorem rsF_trapType : rsF (trapType rs rt k f) = rs := by
  apply BitVec.eq_of_toNat_eq
  have := rs.isLt; have := rt.isLt; have := k.isLt; have := f.isLt
  simp only [rsF, trapType, field_toNat, append_toNat, BitVec.toNat_ofNat]; omega

@[simp] theorem rtF_trapType : rtF (trapType rs rt k f) = rt := by
  apply BitVec.eq_of_toNat_eq
  have := rt.isLt; have := k.isLt; have := f.isLt
  simp only [rtF, trapType, field_toNat, append_toNat, BitVec.toNat_ofNat]; omega

@[simp] theorem code10F_trapType : code10F (trapType rs rt k f) = k := by
  apply BitVec.eq_of_toNat_eq
  have := k.isLt; have := f.isLt
  simp only [code10F, trapType, field_toNat, append_toNat, BitVec.toNat_ofNat]; omega

@[simp] theorem functionF_trapType : functionF (trapType rs rt k f) = f := by
  apply BitVec.eq_of_toNat_eq
  have := f.isLt
  simp only [functionF, trapType, field_toNat, append_toNat, BitVec.toNat_ofNat]; omega

/-- A word of the class SPECIAL is the trap word of its fields. -/
theorem trapType_fields (h : opcodeF w = 0#6) : trapType (rsF w) (rtF w) (code10F w) (functionF w) = w := by
  apply BitVec.eq_of_toNat_eq
  have := w.isLt
  have h := congrArg BitVec.toNat h
  simp only [opcodeF, field_toNat, BitVec.toNat_ofNat] at h
  simp only [trapType, rsF, rtF, code10F, functionF, append_toNat, field_toNat, BitVec.toNat_ofNat]; omega

@[simp] theorem opcodeF_codeType : opcodeF (codeType c f) = 0#6 := by
  apply BitVec.eq_of_toNat_eq
  have := c.isLt; have := f.isLt
  simp only [opcodeF, codeType, field_toNat, append_toNat, BitVec.toNat_ofNat]; omega

@[simp] theorem code20F_codeType : code20F (codeType c f) = c := by
  apply BitVec.eq_of_toNat_eq
  have := c.isLt; have := f.isLt
  simp only [code20F, codeType, field_toNat, append_toNat, BitVec.toNat_ofNat]; omega

@[simp] theorem functionF_codeType : functionF (codeType c f) = f := by
  apply BitVec.eq_of_toNat_eq
  have := f.isLt
  simp only [functionF, codeType, field_toNat, append_toNat, BitVec.toNat_ofNat]; omega

/-- A word of the class SPECIAL is the code word of its fields. -/
theorem codeType_fields (h : opcodeF w = 0#6) : codeType (code20F w) (functionF w) = w := by
  apply BitVec.eq_of_toNat_eq
  have := w.isLt
  have h := congrArg BitVec.toNat h
  simp only [opcodeF, field_toNat, BitVec.toNat_ofNat] at h
  simp only [codeType, code20F, functionF, append_toNat, field_toNat, BitVec.toNat_ofNat]; omega

end

/-! ### Must-be-zero fields (30_encoding.md R79) -/

/-- The fields of I-type words are masked one by one. -/
theorem iType_and (o o' : BitVec 6) (a a' b b' : RegIdx) (m m' : BitVec 16) :
    iType o a b m &&& iType o' a' b' m' = iType (o &&& o') (a &&& a') (b &&& b') (m &&& m') := by
  simp only [iType, ← BitVec.and_append]

/-- The fields of R-type words are masked one by one. -/
theorem rType_and (a a' b b' c c' : RegIdx) (d d' : BitVec 5) (f f' : BitVec 6) :
    rType a b c d f &&& rType a' b' c' d' f' = rType (a &&& a') (b &&& b') (c &&& c') (d &&& d') (f &&& f') := by
  have h : (0#6 &&& 0#6) = 0#6 := rfl
  simp only [rType]
  rw [BitVec.and_append, BitVec.and_append, BitVec.and_append, BitVec.and_append, BitVec.and_append, h]

/-- An encoded instruction has zero in its must-be-zero fields. -/
theorem encode_mustBeZero (i : Instr) : encode i &&& i.mustBeZero = 0 := by
  have k1 : (0x03FFFFC0 : Word) = rType 31 31 31 31 0 := by decide
  have k2 : (0x03FF07C0 : Word) = rType 31 31 0 31 0 := by decide
  have k3 : (0x03E00000 : Word) = rType 31 0 0 0 0 := by decide
  have k4 : (0x03E00000 : Word) = iType 0 31 0 0 := by decide
  have k5 : (0x001FFFC0 : Word) = rType 0 31 31 31 0 := by decide
  have k6 : (0x001F07C0 : Word) = rType 0 31 0 31 0 := by decide
  have k7 : (0x001F0000 : Word) = iType 0 0 31 0 := by decide
  have k8 : (0x0000FFC0 : Word) = rType 0 0 31 31 0 := by decide
  have k9 : (0x000007C0 : Word) = rType 0 0 0 31 0 := by decide
  have zi : iType 0 0 0 0 = 0#32 := by decide
  have zr : rType 0 0 0 0 0 = 0#32 := by decide
  have hr : ∀ {n : Nat} (x : BitVec n), x &&& 0 = 0 := by simp
  have hl : ∀ {n : Nat} (x : BitVec n), 0 &&& x = 0 := by simp
  cases i <;> simp only [encode, Instr.mustBeZero] <;> first
    | exact hr _
    | (first | rw [k1] | rw [k2] | rw [k3] | rw [k5] | rw [k6] | rw [k8] | rw [k9]); simp only [rType_and, hr, hl]; exact zr
    | (first | rw [k4] | rw [k7]); simp only [iType_and, hr, hl]; exact zi

/-! ### The maps -/

/-- The class SPECIAL. -/
theorem decodeCell_special (m : ISAMode) {w : Word} (h : opcodeF w = 0#6) : decodeCell m w = decodeSpecial w := by
  unfold decodeCell; rw [h]; rfl

/-- The class REGIMM. -/
theorem decodeCell_regimm (m : ISAMode) {w : Word} (h : opcodeF w = 1#6) : decodeCell m w = decodeRegimm w := by
  unfold decodeCell; rw [h]; rfl

/-! ### The bytes of a word (20_memory.md R42, R43) -/

/-- A word read from its own bytes, in either byte order. -/
theorem wordOfBytes_bytesOfWord (be : Bool) (w : Word) :
    ∃ b0 b1 b2 b3, bytesOfWord be w = [b0, b1, b2, b3] ∧ wordOfBytes be b0 b1 b2 b3 = w := by
  have key : w.extractLsb' 24 8 ++ w.extractLsb' 16 8 ++ w.extractLsb' 8 8 ++ w.extractLsb' 0 8 = w := by
    apply BitVec.eq_of_toNat_eq
    have := w.isLt
    simp only [append_toNat, field_toNat]; omega
  cases be
  · exact ⟨_, _, _, _, rfl, key⟩
  · exact ⟨_, _, _, _, rfl, key⟩

end Sys2Proof
end

