-- ==== Sys2Proof/Laws/Control.lean ====
section
/-! SUPPORT. Jumps and branches in the terms claims are stated in: targets as arithmetic, and what an instruction whose meaning
is a branch does. -/

namespace Sys2Proof.Machine

/-- The target of a branch as arithmetic (40_jump_branch.md R110). -/
theorem branchTarget_eq (pc : Addr) (offset : BitVec 16) : branchTarget pc offset = branchTo pc offset := by
  unfold branchTarget branchTo
  congr 1
  apply BitVec.eq_of_toInt_eq
  have h : (offset ++ 0#2).toInt = offset.toInt * 4 := by
    have := offset.isLt
    rw [BitVec.toInt_eq_toNat_cond, BitVec.toInt_eq_toNat_cond, append_toNat]
    simp only [BitVec.toNat_ofNat]
    split <;> split <;> omega
  rw [BitVec.toInt_signExtend_of_le (by decide), BitVec.toInt_ofInt, h, Int.bmod_eq_of_le]
  · have := offset.le_toInt; omega
  · have := offset.toInt_lt; omega

/-- The target of J and JAL as arithmetic (R111). -/
theorem jumpTarget_eq (pc : Addr) (index : BitVec 26) : jumpTarget pc index = jumpToIndex pc index := by
  apply BitVec.eq_of_toNat_eq
  have := (pc + 4).isLt
  have := index.isLt
  simp only [jumpTarget, jumpToIndex, append_toNat, field_toNat, BitVec.toNat_ofNat]
  omega

/-! ### Conditions (R116) -/

/-- The test for less than zero. -/
theorem ltZero_iff (v : DWord) : ltZero v = true ↔ v.toInt < 0 := by simp [ltZero]

/-- The test for at most zero. -/
theorem leZero_iff (v : DWord) : leZero v = true ↔ v.toInt ≤ 0 := by simp [leZero]

/-! ### Branches -/

/-- The two states a branch ends from: as it was, or with the link written. -/
def LinkedAs (s u : State) (link : List RegIdx) : Prop :=
  (u = s ∧ link = []) ∨ (u = s.setReg 31 s.linkValue ∧ link = [31])

/-- What the link registers hold, and that nothing else changes. -/
theorem LinkedAs.frame {s u : State} {link : List RegIdx} (h : LinkedAs s u link) (f : Flow) :
    (∀ r ∈ link, (u.retire f).reg r = if r = 0 then 0 else s.pc + 8) ∧ OnlyRegs s (u.retire f) link := by
  rcases h with ⟨rfl, rfl⟩ | ⟨rfl, rfl⟩
  · exact ⟨by simp, onlyRegs_retire u f⟩
  · exact ⟨by simp [State.linkValue, State.setReg_reg_self], onlyRegs_setReg s _ _ f⟩

/-- The program counter of the state a branch ends from. -/
theorem LinkedAs.npc {s u : State} {link : List RegIdx} (h : LinkedAs s u link) : u.npc = s.npc := by
  rcases h with ⟨rfl, rfl⟩ | ⟨rfl, rfl⟩ <;> rfl

/-- An instruction that is a branch whose delay slot is executed in either case. -/
theorem branches_of_branchIf {i : Instr} {s u : State} {link : List RegIdx} {b : Bool} {cond : Prop}
    {offset : BitVec 16} (h : exec i s = branchIf u b (branchTarget s.pc offset)) (hb : b = true ↔ cond)
    (hu : LinkedAs s u link) : Branches i s link cond (branchTo s.pc offset) := by
  rw [← branchTarget_eq]
  refine ⟨_, h, ?_, fun hx => ?_, fun hx => ?_, ?_, (hu.frame _).1, (hu.frame _).2⟩
  · rw [State.retire_pc, hu.npc]; split <;> rfl
  · rw [if_pos (hb.mpr hx)]; rfl
  · rw [if_neg (mt hb.mp hx), State.retire_npc, hu.npc]; rfl
  · split <;> rfl

/-- An instruction that is a branch likely. -/
theorem branchesLikely_of_branchLikelyIf {i : Instr} {s u : State} {link : List RegIdx} {b : Bool} {cond : Prop}
    {offset : BitVec 16} (h : exec i s = branchLikelyIf u b (branchTarget s.pc offset)) (hb : b = true ↔ cond)
    (hu : LinkedAs s u link) : BranchesLikely i s link cond (branchTo s.pc offset) := by
  rw [← branchTarget_eq]
  refine ⟨_, h, fun hx => ?_, fun hx => ?_, fun hx hn => ?_, (hu.frame _).1, (hu.frame _).2⟩
  · rw [if_pos (hb.mpr hx), State.retire_pc, hu.npc]; exact ⟨rfl, rfl, rfl⟩
  · rw [if_neg (mt hb.mp hx), State.retire_pc, State.retire_npc, hu.npc]; exact ⟨rfl, rfl, rfl⟩
  · rw [if_neg (mt hb.mp hx), State.retire_pc, State.retire_npc, hu.npc]
    simp [Flow.pcAfter, Flow.npcAfter, hn, BitVec.add_assoc]

end Sys2Proof.Machine
end

