-- ==== Sys2Proof/Laws/Effect.lean ====
section
/-! SUPPORT. Everything an instruction can do, once: the shapes a next state can have, and the proof that every instruction's
next state has one of them. The claims about all instructions follow from it by cases on the shape. -/

namespace Sys2Proof.Machine

/-! ### Classes of instructions -/

/-- The stores that are not conditional. -/
def isStore : Instr → Bool
  | .sb .. | .sh .. | .sw .. | .sd .. | .swl .. | .swr .. | .sdl .. | .sdr .. => true
  | _ => false

/-- LL and LLD. -/
def isLoadLinked : Instr → Bool
  | .ll .. | .lld .. => true
  | _ => false

/-- SC and SCD. -/
def isStoreConditional : Instr → Bool
  | .sc .. | .scd .. => true
  | _ => false

/-- The ten instructions that write HI or LO (10_state.md R29). -/
def isHiLoWriter : Instr → Bool
  | .mult .. | .multu .. | .div .. | .divu .. | .dmult .. | .dmultu .. | .ddiv .. | .ddivu .. | .mthi .. | .mtlo .. => true
  | _ => false

/-- The twenty jumps and branches (40_jump_branch.md). -/
def isBranch : Instr → Bool
  | .j .. | .jal .. | .jr .. | .jalr .. | .beq .. | .bne .. | .blez .. | .bgtz .. | .beql .. | .bnel .. | .blezl ..
  | .bgtzl .. | .bltz .. | .bgez .. | .bltzl .. | .bgezl .. | .bltzal .. | .bgezal .. | .bltzall .. | .bgezall .. => true
  | _ => false

/-- The stores and store conditionals count as accesses. -/
theorem isAccess_of_store {i : Instr} (h : isStore i = true ∨ isStoreConditional i = true) : isAccess i = true := by
  cases i <;> simp_all [isStore, isStoreConditional, isAccess]

/-- The writes of HI and LO and the jumps and branches do not, and begin no sequence. -/
theorem not_access_of_other {i : Instr} (h : isHiLoWriter i = true ∨ isBranch i = true) :
    isAccess i = false ∧ isLoadLinked i = false := by
  cases i <;> simp_all [isHiLoWriter, isBranch, isAccess, isLoadLinked]

/-! ### Changes of general registers alone -/

/-- The register is the one the instruction names as its destination. -/
def Named (i : Instr) (r : RegIdx) : Prop := destination i = some r

/-- A window of reads follows the registers from one state to another: it holds nothing new, what it still holds is
unchanged, and it has lost no more than registers that may be written. -/
structure ReadWindow.Follows (w : RegIdx → Prop) (s u : State) (old new : ReadWindow) : Prop where
  last_held : ∀ r, new.last = some r → old.last = some r ∧ u.reg r = s.reg r
  last_kept : ∀ r, old.last = some r → ¬w r → new.last = some r
  prev_held : ∀ r, new.prev = some r → old.prev = some r
  prev_kept : ∀ r, old.prev = some r → ¬w r → new.prev = some r

/-- Between the states only the general registers `w`, the windows of reads and the count of draws differ; slot 0 is the
same. -/
structure RegsOnly (w : RegIdx → Prop) (s u : State) : Prop where
  eq : u = { s with gpr := u.gpr, hiReads := u.hiReads, loReads := u.loReads, draws := u.draws }
  zero : u.gpr[0] = s.gpr[0]
  draws : s.draws ≤ u.draws
  regs : ∀ r, ¬w r → u.reg r = s.reg r
  hi_window : ReadWindow.Follows w s u s.hiReads u.hiReads
  lo_window : ReadWindow.Follows w s u s.loReads u.loReads

section
variable {w : RegIdx → Prop} {s u v : State}

/-- A window that stays follows registers that stay. -/
theorem ReadWindow.Follows.refl (h : ∀ r, u.reg r = s.reg r) (old : ReadWindow) : ReadWindow.Follows w s u old old :=
  ⟨fun r e => ⟨e, h r⟩, fun _ e _ => e, fun _ e => e, fun _ e _ => e⟩

/-- One change after another. -/
theorem ReadWindow.Follows.trans {a b c : ReadWindow} (h : ReadWindow.Follows w s u a b)
    (g : ReadWindow.Follows w u v b c) : ReadWindow.Follows w s v a c :=
  ⟨fun r e => ⟨(h.last_held r (g.last_held r e).1).1, (g.last_held r e).2.trans (h.last_held r (g.last_held r e).1).2⟩,
    fun r e n => g.last_kept r (h.last_kept r e n) n, fun r e => h.prev_held r (g.prev_held r e),
    fun r e n => g.prev_kept r (h.prev_kept r e n) n⟩

/-- Forgetting the register that is written. -/
theorem ReadWindow.Follows.forget {i : RegIdx} (hi : w i) (h : ∀ r, r ≠ i → u.reg r = s.reg r) (old : ReadWindow) :
    ReadWindow.Follows w s u old (old.forget i) := by
  have sub : ∀ (o : Option RegIdx) r, (if o = some i then none else o) = some r → o = some r ∧ r ≠ i := by
    intro o r e
    split at e
    · cases e
    · next n => exact ⟨e, fun x => n (x ▸ e)⟩
  have ne : ∀ r, ¬w r → r ≠ i := fun r n x => n (x ▸ hi)
  refine ⟨fun r e => ?_, fun r e n => ?_, fun r e => (sub _ r e).1, fun r e n => ?_⟩
  · obtain ⟨e, n⟩ := sub _ r e
    exact ⟨e, h r n⟩
  · simp [ReadWindow.forget, e, ne r n]
  · simp [ReadWindow.forget, e, ne r n]

/-- More registers may be written. -/
theorem ReadWindow.Follows.mono {w' : RegIdx → Prop} {old new : ReadWindow} (h : ReadWindow.Follows w s u old new)
    (hw : ∀ r, w r → w' r) : ReadWindow.Follows w' s u old new :=
  ⟨h.last_held, fun r e n => h.last_kept r e (mt (hw r) n), h.prev_held, fun r e n => h.prev_kept r e (mt (hw r) n)⟩

/-- No change. -/
theorem RegsOnly.refl (s : State) : RegsOnly w s s :=
  ⟨rfl, rfl, le_refl _, fun _ _ => rfl, .refl (fun _ => rfl) _, .refl (fun _ => rfl) _⟩

/-- One change after another. -/
theorem RegsOnly.trans (h : RegsOnly w s u) (g : RegsOnly w u v) : RegsOnly w s v := by
  refine ⟨?_, g.zero.trans h.zero, h.draws.trans g.draws, fun r n => (g.regs r n).trans (h.regs r n),
    h.hi_window.trans g.hi_window, h.lo_window.trans g.lo_window⟩
  have e := g.eq
  rw [h.eq] at e
  exact e

/-- More registers may be written. -/
theorem RegsOnly.mono {w' : RegIdx → Prop} (h : RegsOnly w s u) (hw : ∀ r, w r → w' r) : RegsOnly w' s u :=
  ⟨h.eq, h.zero, h.draws, fun r n => h.regs r (mt (hw r) n),
    h.hi_window.mono hw,
    h.lo_window.mono hw⟩

/-- A register write. -/
theorem RegsOnly.setReg (s : State) {i : RegIdx} (hi : w i) (v : DWord) : RegsOnly w s (s.setReg i v) := by
  have other : ∀ r, r ≠ i → (s.setReg i v).reg r = s.reg r := fun r n => State.setReg_reg_ne s n v
  refine ⟨rfl, ?_, le_refl _, fun r n => other r fun e => n (e ▸ hi), .forget hi other _, .forget hi other _⟩
  rw [State.setReg_gpr]
  split
  · rfl
  · next h =>
    have : i.toNat ≠ 0 := fun e => h (BitVec.eq_of_toNat_eq e)
    rw [Vector.getElem_set_ne _ _ this]

/-- A write of an instruction's destination. -/
theorem RegsOnly.setNamed {i : Instr} (s : State) {rd : RegIdx} (hd : destination i = some rd) (v : DWord) :
    RegsOnly (Named i) s (s.setReg rd v) := .setReg s hd v

/-- More draws. -/
theorem RegsOnly.counted (s : State) {d : Nat} (h : s.draws ≤ d) : RegsOnly w s { s with draws := d } :=
  ⟨rfl, rfl, h, fun _ _ => rfl, @ReadWindow.Follows.refl w s { s with draws := d } (fun _ => rfl) s.hiReads,
    @ReadWindow.Follows.refl w s { s with draws := d } (fun _ => rfl) s.loReads⟩

/-- A draw. -/
theorem RegsOnly.drawn (s : State) : RegsOnly w s s.drawn := .counted s (Nat.le_succ _)

/-- A write of any value. -/
theorem RegsOnly.setRegAny (s : State) {i : RegIdx} (hi : w i) : RegsOnly w s (s.setRegAny i) :=
  (RegsOnly.drawn s).trans (RegsOnly.setReg s.drawn hi s.anyWord)

/-- The destinations in a window becoming any values. -/
theorem RegsOnly.clobberReads (s : State) {q : ReadWindow} (hq : ∀ r, q.Holds r → w r) :
    RegsOnly w s (s.clobberReads q) := by
  have one : ∀ (u : State) (o : Option RegIdx), (∀ r, o = some r → w r) → RegsOnly w u (u.clobber o) := by
    intro u o h
    cases o with
    | none => exact RegsOnly.refl u
    | some i => exact RegsOnly.setRegAny u (h i rfl)
  exact (one s q.last fun r e => hq r (.inl e)).trans (one _ q.prev fun r e => hq r (.inr e))

/-- Everything that stays, field by field. -/
theorem RegsOnly.same (h : RegsOnly w s u) :
    u.hi = s.hi ∧ u.lo = s.lo ∧ u.pc = s.pc ∧ u.npc = s.npc ∧ u.inDelaySlot = s.inDelaySlot ∧ u.llBit = s.llBit ∧
      u.llAddr = s.llAddr ∧ u.llWidth = s.llWidth ∧ u.llIntact = s.llIntact ∧ u.llBlock = s.llBlock ∧
      u.hiGuard = s.hiGuard ∧ u.loGuard = s.loGuard ∧ u.hiloUnread = s.hiloUnread ∧ u.mem = s.mem ∧
      u.stored = s.stored ∧ u.exc = s.exc ∧ u.config = s.config := by
  have e := h.eq
  refine ⟨?_, ?_, ?_, ?_, ?_, ?_, ?_, ?_, ?_, ?_, ?_, ?_, ?_, ?_, ?_, ?_, ?_⟩ <;> rw [e]

/-- The registers a window still holds were held before. -/
theorem RegsOnly.lo_holds (h : RegsOnly w s u) {r : RegIdx} (hr : u.loReads.Holds r) : s.loReads.Holds r :=
  hr.imp (fun e => (h.lo_window.last_held r e).1) (h.lo_window.prev_held r)

/-- A window still holds the registers it held that have not been written. -/
theorem RegsOnly.lo_still_holds (h : RegsOnly w s u) {r : RegIdx} (hr : s.loReads.Holds r) (n : ¬w r) : u.loReads.Holds r :=
  hr.imp (fun e => h.lo_window.last_kept r e n) (fun e => h.lo_window.prev_kept r e n)

/-! ### The hazard of 70_reset_and_hazards.md R350 under its alternative -/

/-- Nothing else than `RegsOnly` says has happened, and each of the registers but register 0 has become a fresh free value. -/
structure Replaced (w : RegIdx → Prop) (s u : State) : Prop where
  regs : RegsOnly w s u
  fresh : ∀ r, r ≠ 0 → w r → ∃ n, s.draws ≤ n ∧ n < u.draws ∧ u.reg r = Config.freeWord n

/-- The same registers, said otherwise. -/
theorem Replaced.congr {w' : RegIdx → Prop} (h : Replaced w s u) (hw : ∀ r, w r ↔ w' r) : Replaced w' s u :=
  ⟨h.regs.mono fun r => (hw r).mp, fun r h0 hr => h.fresh r h0 ((hw r).mpr hr)⟩

/-- No register. -/
theorem Replaced.none (s : State) (h : ∀ r, ¬w r) : Replaced w s s := ⟨.refl s, fun r _ hr => absurd hr (h r)⟩

/-- One register. -/
theorem Replaced.setRegAny (s : State) (i : RegIdx) : Replaced (fun r => r = i) s (s.setRegAny i) := by
  refine ⟨.setRegAny s rfl, ?_⟩
  rintro r h0 rfl
  exact ⟨s.draws, le_refl _, Nat.lt_succ_self _, by rw [State.setRegAny, State.setReg_reg_self, if_neg h0]; rfl⟩

/-- One replacement after another. -/
theorem Replaced.trans {a b c : RegIdx → Prop} (h : Replaced a s u) (g : Replaced b u v) (ha : ∀ r, a r → c r)
    (hb : ∀ r, b r → c r) (hc : ∀ r, c r → a r ∨ b r) : Replaced c s v := by
  refine ⟨(h.regs.mono ha).trans (g.regs.mono hb), fun r h0 hr => ?_⟩
  by_cases hbr : b r
  · obtain ⟨n, h1, h2, h3⟩ := g.fresh r h0 hbr
    exact ⟨n, h.regs.draws.trans h1, h2, h3⟩
  · obtain ⟨n, h1, h2, h3⟩ := h.fresh r h0 ((hc r hr).resolve_right hbr)
    exact ⟨n, h1, h2.trans_le g.regs.draws, (g.regs.regs r hbr).trans h3⟩

/-- The destinations in a window becoming any values. -/
theorem Replaced.clobberReads (s : State) (q : ReadWindow) : Replaced q.Holds s (s.clobberReads q) := by
  have one : ∀ (u : State) (o : Option RegIdx), Replaced (fun r => o = some r) u (u.clobber o) := by
    intro u o
    cases o with
    | none => exact .none u fun r h => by cases h
    | some i => exact (Replaced.setRegAny u i).congr fun r => by rw [Option.some.injEq, eq_comm]
  exact Replaced.trans (one s q.last) (one _ q.prev) (fun _ => .inl) (fun _ => .inr) (fun _ => id)

/-- The guard test of HI goes on. -/
theorem guardHi_goes {s : State} (hz : s.config.hiLoHazard = .destinationAny) :
    ∃ u, Replaced (fun r => s.hiGuard ≠ 0 ∧ s.hiReads.Holds r) s u ∧ ∀ k, guardHi s k = k u := by
  by_cases hg : s.hiGuard = 0
  · exact ⟨s, .none s fun _ h => h.1 hg, fun k => guardHi_eq hg k⟩
  · refine ⟨_, (Replaced.clobberReads s s.hiReads).congr fun r => ⟨fun h => ⟨hg, h⟩, fun h => h.2⟩, fun k => ?_⟩
    simp only [guardHi, if_neg hg, hz]

/-- The guard test of LO goes on. -/
theorem guardLo_goes {s : State} (hz : s.config.hiLoHazard = .destinationAny) :
    ∃ u, Replaced (fun r => s.loGuard ≠ 0 ∧ s.loReads.Holds r) s u ∧ ∀ k, guardLo s k = k u := by
  by_cases hg : s.loGuard = 0
  · exact ⟨s, .none s fun _ h => h.1 hg, fun k => guardLo_eq hg k⟩
  · refine ⟨_, (Replaced.clobberReads s s.loReads).congr fun r => ⟨fun h => ⟨hg, h⟩, fun h => h.2⟩, fun k => ?_⟩
    simp only [guardLo, if_neg hg, hz]

/-- A multiply or divide goes on, and reads its operands after both replacements. -/
theorem mulDiv_goes {i : Instr} {s : State} (hi : writesHi i = true) (hl : writesLo i = true)
    (hz : s.config.hiLoHazard = .destinationAny) (rs rt : RegIdx) (f : DWord → DWord → Option (DWord × DWord)) :
    ∃ u, Replaced (Hazarded i s) s u ∧ mulDiv s rs rt f = finishMulDiv u (f (u.reg rs) (u.reg rt)) := by
  obtain ⟨u, hu, eu⟩ := guardHi_goes hz
  have hc : u.config = s.config := by rw [hu.regs.eq]
  have hg : u.loGuard = s.loGuard := by rw [hu.regs.eq]
  obtain ⟨v, hv, ev⟩ := guardLo_goes (s := u) (hc ▸ hz)
  refine ⟨v, hu.trans hv (fun r h => .inl ⟨hi, h⟩) (fun r h => .inr ⟨hl, hg ▸ h.1, hu.regs.lo_holds h.2⟩) ?_,
    by rw [mulDiv, eu, ev]⟩
  rintro r (h | h)
  · exact .inl h.2
  · by_cases n : s.hiGuard ≠ 0 ∧ s.hiReads.Holds r
    · exact .inl n
    · exact .inr ⟨hg ▸ h.2.1, hu.regs.lo_still_holds h.2.2 n⟩

end

/-! ### The shapes of a next state -/

/-- What an instruction can do when it answers a next state. -/
inductive Effect (i : Instr) (s : State) : State → Prop
  /-- It stops at an exception. -/
  | stops (e : Exception) (d : Nat) (hd : s.draws ≤ d) : Effect i s { s with exc := some (s.recordOf e), draws := d }
  /-- It writes at most its destination. -/
  | computes (hi : isAccess i = false ∧ isLoadLinked i = false) (u : State) (hu : RegsOnly (Named i) s u) :
      Effect i s (u.retire .next)
  /-- It accesses memory and stores nothing. -/
  | accesses (hi : isAccess i = true) (u : State) (hu : RegsOnly (Named i) s.accessed u) : Effect i s (u.retire .next)
  /-- It stores. -/
  | stores (hi : isStore i = true) (l : Lane) (v : DWord) : Effect i s ((s.accessed.writeLane l v).retire .next)
  /-- It begins a load linked sequence. -/
  | links (hi : isLoadLinked i = true) (w : LinkWidth) (ea : Addr) (ha : aligned ea (linkBytes w) = true) (u : State)
      (hu : RegsOnly (Named i) (s.linked w ea) u) : Effect i s (u.retire .next)
  /-- It stores conditionally. -/
  | conditional (hi : isStoreConditional i = true) (m : State)
      (hm : m = s.accessed ∨ ∃ l v, m = s.accessed.writeLane l v) (b : Bool) (u : State)
      (hu : RegsOnly (Named i) (m.withLLbit b) u) : Effect i s (u.retire .next)
  /-- It is a jump or branch, outside a delay slot. -/
  | transfers (hi : isBranch i = true) (hs : s.inDelaySlot = false) (f : Flow) (u : State) (hu : RegsOnly (Named i) s u) :
      Effect i s (u.retire f)
  /-- It reads HI. -/
  | readsHi (rd : RegIdx) (hi : i = .mfhi rd) (u : State) (hu : RegsOnly (Named i) s u) :
      Effect i s ((u.hiLoRead.retire .next).guardHiRead rd)
  /-- It reads LO. -/
  | readsLo (rd : RegIdx) (hi : i = .mflo rd) (u : State) (hu : RegsOnly (Named i) s u) :
      Effect i s ((u.hiLoRead.retire .next).guardLoRead rd)
  /-- It writes HI or LO or both, and under R350's alternative the destinations it hazards. -/
  | writesHiLo (hi : isHiLoWriter i = true) (u : State) (hu : RegsOnly (Hazarded i s) s u) (hv lv : DWord) (b : Bool) :
      Effect i s (({ u with hi := hv, lo := lv, hiloUnread := b } : State).retire .next)

section
variable {i : Instr} {s t : State}

/-! ### The shape of each shared operation -/

/-- Stopping at an exception. -/
theorem Effect.stopAt (e : Exception) : Effect i s (s.stopAt e) := .stops e s.draws (le_refl _)

theorem raise_effect {e : Exception} (h : s.raise e = .next t) : Effect i s t := by
  obtain rfl := Host.Outcome.next.inj h
  exact .stopAt e

theorem atLevel_effect {level : ISAMode} {k : Result} (h : atLevel level s k = .next t)
    (hk : k = .next t → Effect i s t) : Effect i s t := by
  rcases atLevel_next h with ⟨_, rfl⟩ | ⟨_, h⟩
  · exact .stopAt _
  · exact hk h

theorem retire_effect (hi : isAccess i = false ∧ isLoadLinked i = false)
    (h : Host.Outcome.next (s.retire .next) = (.next t : Result)) : Effect i s t := by
  obtain rfl := Host.Outcome.next.inj h
  exact .computes hi s (.refl s)

theorem writeResult_effect (hi : isAccess i = false ∧ isLoadLinked i = false) {rd : RegIdx}
    (hd : Named i rd) {v : DWord} (h : writeResult s rd v = .next t) : Effect i s t := by
  obtain rfl := Host.Outcome.next.inj h
  exact .computes hi _ (.setReg s hd v)

theorem trappingResult64_effect (hi : isAccess i = false ∧ isLoadLinked i = false) {rd : RegIdx}
    (hd : Named i rd) {r : Option DWord} (h : trappingResult64 s rd r = .next t) :
    Effect i s t := by
  rcases trappingResult64_next h with ⟨v, _, rfl⟩ | ⟨_, rfl⟩
  · exact .computes hi _ (.setReg s hd v)
  · exact .stopAt _

theorem wordResult_effect (hi : isAccess i = false ∧ isLoadLinked i = false) {ok : Bool} {rd : RegIdx}
    (hd : Named i rd) {v : Word} (h : wordResult s ok rd v = .next t) : Effect i s t := by
  rcases wordResult_next h with ⟨_, rfl⟩ | ⟨_, rfl⟩
  · exact .computes hi _ (.setReg s hd _)
  · exact .computes hi _ (.setRegAny s hd)

theorem trappingWordResult_effect (hi : isAccess i = false ∧ isLoadLinked i = false) {ok : Bool}
    {rd : RegIdx} (hd : Named i rd) {r : Option Word}
    (h : trappingWordResult s ok rd r = .next t) : Effect i s t := by
  rcases trappingWordResult_next h with ⟨_, v, _, rfl⟩ | ⟨_, _, rfl⟩ | ⟨_, _, rfl⟩ | ⟨_, _, rfl⟩
  · exact .computes hi _ (.setReg s hd _)
  · exact .stopAt _
  · exact .stops _ (s.draws + 1) (Nat.le_succ _)
  · exact .computes hi _ ((RegsOnly.drawn s).trans (.setRegAny _ hd))

theorem trapIf_effect (hi : isAccess i = false ∧ isLoadLinked i = false) {cond : Bool} {code : BitVec 10}
    (h : trapIf s cond code = .next t) : Effect i s t := by
  rcases trapIf_next h with ⟨_, rfl⟩ | ⟨_, rfl⟩
  · exact .stopAt _
  · exact .computes hi s (.refl s)

theorem coprocessor_effect {z : Fin 4} (h : coprocessor s z = .next t) : Effect i s t := by
  obtain ⟨_, rfl⟩ := coprocessor_next h
  exact .stopAt _

theorem loadLane_effect (hi : isAccess i = true) {rt : RegIdx} (hd : Named i rt) {ea : Addr} {l : Lane}
    {post : DWord → DWord} (h : loadLane s rt ea l post = .next t) : Effect i s t := by
  rcases loadLane_next h with ⟨e, _, rfl⟩ | ⟨_, rfl⟩
  · exact .stopAt e
  · exact .accesses hi _ (.setReg _ hd _)

theorem loadAligned_effect (hi : isAccess i = true) {n : Nat} {rt : RegIdx} (hd : Named i rt) {ea : Addr}
    {post : DWord → DWord} (h : loadAligned s n rt ea post = .next t) : Effect i s t := by
  rcases loadAligned_next h with ⟨_, rfl⟩ | ⟨_, h⟩
  · exact .stopAt _
  · exact loadLane_effect hi hd h

theorem storeLane_effect (hi : isStore i = true) {ea : Addr} {l : Lane} {v : DWord}
    (h : storeLane s ea l v = .next t) : Effect i s t := by
  rcases storeLane_next h with ⟨e, _, rfl⟩ | ⟨_, rfl⟩
  · exact .stopAt e
  · exact .stores hi l v

theorem storeAligned_effect (hi : isStore i = true) {n : Nat} {ea : Addr} {v : DWord}
    (h : storeAligned s n ea v = .next t) : Effect i s t := by
  rcases storeAligned_next h with ⟨_, rfl⟩ | ⟨_, h⟩
  · exact .stopAt _
  · exact storeLane_effect hi h

theorem loadLinked_effect (hi : isLoadLinked i = true) {w : LinkWidth} {rt : RegIdx}
    (hd : Named i rt) {ea : Addr} {post : DWord → DWord} (h : loadLinked s w rt ea post = .next t) : Effect i s t := by
  rcases loadLinked_next h with ⟨_, rfl⟩ | ⟨e, _, rfl⟩ | ⟨ha, _, rfl⟩
  · exact .stopAt _
  · exact .stopAt e
  · exact .links hi w ea ha _ (.setReg _ hd _)

theorem storeConditional_effect (hi : isStoreConditional i = true) {w : LinkWidth} {rt : RegIdx}
    (hd : Named i rt) {ea : Addr}
    (h : storeConditional s w rt ea = .next t) : Effect i s t := by
  rcases storeConditional_next h with ⟨_, rfl⟩ | ⟨e, _, rfl⟩ | ⟨_, _, rfl⟩
  · exact .stopAt _
  · exact .stopAt e
  · by_cases ho : s.scOk w ea = true
    · refine .conditional hi (s.accessed.writeLane (Lane.whole ea (linkBytes w)) (s.reg rt)) (.inr ⟨_, _, rfl⟩)
        s.drawn.anyBit _ (RegsOnly.trans ?_ (.setReg _ hd _))
      rw [State.afterChoice, if_pos ho]
      have hl : ∀ (l : List (Addr × Byte)) (u : State),
          (u.drawn.drawn.accessed.storeBytes l) = (u.accessed.storeBytes l).drawn.drawn := by
        intro l
        induction l with
        | nil => intro u; rfl
        | cons p l ih => intro u; exact ih (u.storeByte p.1 p.2)
      have hw : s.drawn.drawn.accessed.writeLane (Lane.whole ea (linkBytes w)) (s.reg rt) =
          (s.accessed.writeLane (Lane.whole ea (linkBytes w)) (s.reg rt)).drawn.drawn := hl _ s
      rw [hw]
      exact RegsOnly.counted (State.withLLbit _ _) (Nat.le_add_right _ 2)
    · refine .conditional hi s.accessed (.inl rfl) s.drawn.anyBit _ (RegsOnly.trans ?_ (.setReg _ hd _))
      rw [State.afterChoice, if_neg ho]
      exact RegsOnly.counted (State.withLLbit _ _) (Nat.le_add_right _ 2)

theorem outsideSlot_effect (hi : isBranch i = true) {k : Result} (h : outsideSlot s k = .next t)
    (hk : k = .next t → ∃ f u, RegsOnly (Named i) s u ∧ t = u.retire f) : Effect i s t := by
  obtain ⟨hs, h⟩ := outsideSlot_next h
  obtain ⟨f, u, hu, rfl⟩ := hk h
  exact .transfers hi hs f u hu

theorem linkingBranch_effect (hi : isBranch i = true) (hd : Named i 31) {rs : RegIdx} {k : State → Result}
    (h : linkingBranch s rs k = .next t)
    (hk : ∀ u, k u = .next t → ∃ f, t = u.retire f) : Effect i s t := by
  obtain ⟨hs, _, h⟩ := linkingBranch_next h
  obtain ⟨f, rfl⟩ := hk _ h
  exact .transfers hi hs f _ (.setReg s hd _)

/-- The guard test of HI passes on a state that differs from the first in hazarded destinations alone. -/
theorem guardHi_regsOnly (hi : writesHi i = true) {k : State → Result} (h : guardHi s k = .next t) :
    ∃ u, RegsOnly (Hazarded i s) s u ∧ k u = .next t := by
  rcases guardHi_next h with ⟨_, h⟩ | ⟨hg, _, h⟩
  · exact ⟨s, .refl s, h⟩
  · exact ⟨_, .clobberReads s fun r hr => .inl ⟨hi, hg, hr⟩, h⟩

/-- So does that of LO, also after that of HI. -/
theorem guardLo_regsOnly (hi : writesLo i = true) {u : State} (hu : RegsOnly (Hazarded i s) s u) {k : State → Result}
    (h : guardLo u k = .next t) : ∃ v, RegsOnly (Hazarded i s) s v ∧ k v = .next t := by
  have hl : u.loGuard = s.loGuard := by rw [hu.eq]
  rcases guardLo_next h with ⟨_, h⟩ | ⟨hg, _, h⟩
  · exact ⟨u, hu, h⟩
  · exact ⟨_, hu.trans (.clobberReads u fun r hr => .inr ⟨hi, hl ▸ hg, hu.lo_holds hr⟩), h⟩

theorem mulDiv_effect (hi : writesHi i = true ∧ writesLo i = true) {rs rt : RegIdx}
    {f : DWord → DWord → Option (DWord × DWord)} (h : mulDiv s rs rt f = .next t) : Effect i s t := by
  have hw : isHiLoWriter i = true := by
    revert hi; cases i <;> simp [writesHi, writesLo, isHiLoWriter]
  obtain ⟨u, hu, h⟩ := guardHi_regsOnly hi.1 h
  obtain ⟨v, hv, h⟩ := guardLo_regsOnly hi.2 hu h
  rcases finishMulDiv_next h with ⟨hx, lx, _, rfl⟩ | ⟨_, rfl⟩
  · exact .writesHiLo hw v hv hx lx true
  · exact .writesHiLo hw v.drawn.drawn ((hv.trans (.drawn v)).trans (.drawn _)) _ _ true

/-! ### The shape of each instruction -/

/-- Every next state of an instruction has one of the shapes. -/
theorem exec_effect (h : exec i s = .next t) : Effect i s t := by
  cases i
  case addi | add | sub =>
    exact trappingWordResult_effect ⟨rfl, rfl⟩ rfl h
  case addiu | addu | subu | srl | sra | srlv | srav =>
    exact wordResult_effect ⟨rfl, rfl⟩ rfl h
  case slti | sltiu | andi | ori | xori | lui | and_ | or_ | xor_ | nor | slt | sltu | sll | sllv =>
    exact writeResult_effect ⟨rfl, rfl⟩ rfl h
  case daddi | dadd | dsub =>
    exact atLevel_effect h fun h => trappingResult64_effect ⟨rfl, rfl⟩ rfl h
  case daddiu | daddu | dsubu | dsll | dsrl | dsra | dsll32 | dsrl32 | dsra32 | dsllv | dsrlv | dsrav =>
    exact atLevel_effect h fun h => writeResult_effect ⟨rfl, rfl⟩ rfl h
  case movz =>
    refine atLevel_effect h fun h => ?_
    split at h
    exacts [writeResult_effect ⟨rfl, rfl⟩ rfl h, retire_effect ⟨rfl, rfl⟩ h]
  case movn =>
    refine atLevel_effect h fun h => ?_
    split at h
    exacts [retire_effect ⟨rfl, rfl⟩ h, writeResult_effect ⟨rfl, rfl⟩ rfl h]
  case lb | lbu | lwl | lwr =>
    exact loadLane_effect rfl rfl h
  case lh | lhu | lw =>
    exact loadAligned_effect rfl rfl h
  case lwu | ld =>
    exact atLevel_effect h fun h => loadAligned_effect rfl rfl h
  case ldl | ldr =>
    exact atLevel_effect h fun h => loadLane_effect rfl rfl h
  case sb | swl | swr =>
    exact storeLane_effect rfl h
  case sh | sw =>
    exact storeAligned_effect rfl h
  case sd =>
    exact atLevel_effect h fun h => storeAligned_effect rfl h
  case sdl | sdr =>
    exact atLevel_effect h fun h => storeLane_effect rfl h
  case ll =>
    exact loadLinked_effect rfl rfl h
  case lld =>
    exact atLevel_effect h fun h => loadLinked_effect rfl rfl h
  case sc =>
    exact storeConditional_effect rfl rfl h
  case scd =>
    exact atLevel_effect h fun h => storeConditional_effect rfl rfl h
  case pref =>
    exact atLevel_effect h fun h => by obtain rfl := Host.Outcome.next.inj h; exact .accesses rfl _ (.refl _)
  case sync =>
    exact retire_effect ⟨rfl, rfl⟩ h
  case j | jr =>
    exact outsideSlot_effect rfl h fun h => ⟨_, s, .refl s, (Host.Outcome.next.inj h).symm⟩
  case beq | bne | blez | bgtz | bltz | bgez | beql | bnel | blezl | bgtzl | bltzl | bgezl =>
    exact outsideSlot_effect rfl h fun h => ⟨_, s, .refl s, (Host.Outcome.next.inj h).symm⟩
  case jal =>
    exact outsideSlot_effect rfl h fun h => ⟨_, _, .setNamed s rfl _, (Host.Outcome.next.inj h).symm⟩
  case jalr =>
    refine outsideSlot_effect rfl h fun h => ?_
    split at h
    · simp at h
    · exact ⟨_, _, .setNamed s rfl _, (Host.Outcome.next.inj h).symm⟩
  case bltzal | bgezal | bltzall | bgezall =>
    simp only [exec, execBltzal, execBgezal, execBltzall, execBgezall] at h
    exact linkingBranch_effect rfl rfl h fun u h => ⟨_, (Host.Outcome.next.inj h).symm⟩
  case mult | multu | div | divu =>
    exact mulDiv_effect ⟨rfl, rfl⟩ h
  case dmult | dmultu | ddiv | ddivu =>
    exact atLevel_effect h fun h => mulDiv_effect ⟨rfl, rfl⟩ h
  case mfhi =>
    obtain rfl := Host.Outcome.next.inj h
    exact .readsHi _ rfl _ (.setNamed s rfl _)
  case mflo =>
    obtain rfl := Host.Outcome.next.inj h
    exact .readsLo _ rfl _ (.setNamed s rfl _)
  case mthi =>
    simp only [exec, execMthi] at h
    obtain ⟨u, hu, h⟩ := guardHi_regsOnly (i := .mthi _) rfl h
    obtain rfl := Host.Outcome.next.inj h
    split
    · exact .writesHiLo rfl u.drawn (hu.trans (.drawn u)) _ u.anyWord u.hiloUnread
    · exact .writesHiLo rfl u hu _ u.lo u.hiloUnread
  case mtlo =>
    simp only [exec, execMtlo] at h
    obtain ⟨u, hu, h⟩ := guardLo_regsOnly (i := .mtlo _) rfl (.refl s) h
    obtain rfl := Host.Outcome.next.inj h
    split
    · exact .writesHiLo rfl u.drawn (hu.trans (.drawn u)) u.anyWord _ u.hiloUnread
    · exact .writesHiLo rfl u hu u.hi _ u.hiloUnread
  case tge | tgeu | tlt | tltu | teq | tne | tgei | tgeiu | tlti | tltiu | teqi | tnei =>
    exact trapIf_effect ⟨rfl, rfl⟩ h
  case cop0 | cop1 | cop2 | lwc1 | lwc2 | ldc1 | ldc2 | swc1 | swc2 | sdc1 | sdc2 =>
    exact coprocessor_effect h
  case cop1x | movci =>
    exact atLevel_effect h coprocessor_effect
  case rho =>
    simp only [exec, execRho] at h
    split at h
    · exact coprocessor_effect h
    · exact raise_effect h
  case syscall | break_ | reservedOp011100 | reservedOp011101 | reservedOp011110 | reservedOp011111
      | reservedOp111011 | reservedSpecial000101 | reservedSpecial001110 | reservedSpecial010101
      | reservedSpecial101000 | reservedSpecial101001 | reservedSpecial110101 | reservedSpecial110111
      | reservedSpecial111001 | reservedSpecial111101 | reservedRegimm00100 | reservedRegimm00101
      | reservedRegimm00110 | reservedRegimm00111 | reservedRegimm01101 | reservedRegimm01111
      | reservedRegimm10100 | reservedRegimm10101 | reservedRegimm10110 | reservedRegimm10111
      | reservedRegimm11000 | reservedRegimm11001 | reservedRegimm11010 | reservedRegimm11011
      | reservedRegimm11100 | reservedRegimm11101 | reservedRegimm11110 | reservedRegimm11111 | cop3 | lwc3
      | swc3 | ldc3 | sdc3 =>
    exact raise_effect h
end

end Sys2Proof.Machine
end

