-- ==== Sys2Proof/Laws/Fetch.lean ====
section
/-! SUPPORT. The fetch in the terms claims are stated in, and the placing of bytes by the environment. -/

namespace Sys2Proof.Machine

/-! ### The fetch -/

/-- Four bytes as a word, in the byte order of the machine. -/
theorem wordOfBytes_memValue (s : State) :
    wordOfBytes s.config.bigEndian (s.byteAt s.pc) (s.byteAt (s.pc + 1)) (s.byteAt (s.pc + 2)) (s.byteAt (s.pc + 3)) =
      BitVec.ofNat 32 (memValue s s.pc 4) := by
  apply BitVec.eq_of_toNat_eq
  have h0 := (s.byteAt s.pc).isLt
  have h1 := (s.byteAt (s.pc + 1)).isLt
  have h2 := (s.byteAt (s.pc + 2)).isLt
  have h3 := (s.byteAt (s.pc + 3)).isLt
  have e0 : s.pc + BitVec.ofNat 64 0 = s.pc := by simp
  simp only [memValue, List.range, List.range.loop, List.map, List.sum_cons, List.sum_nil, byteRank, BitVec.toNat_ofNat]
  rw [e0]
  simp only [wordOfBytes, BitVec.ofNat_eq_ofNat] at *
  split <;> simp only [append_toNat] <;> norm_num <;> omega

/-- The decoder's answer at `pc`. -/
theorem State.fetched_eq (s : State) : s.fetched = decode s.config (BitVec.ofNat 32 (memValue s s.pc 4)) := by
  rw [State.fetched, decodeBytes, wordOfBytes_memValue]

/-- No byte at `pc` has been stored to. -/
theorem State.fetchStored_eq_false {s : State} (h : ∀ k, k < 4 → (s.pc + BitVec.ofNat 64 k).toNat ∉ s.stored) :
    s.fetchStored = false := by
  rw [State.fetchStored, List.any_eq_false]
  intro a ha
  obtain ⟨k, hk, rfl⟩ := (s.mem_fetchAddrs a).mp ha
  simpa using h k hk

/-- The bytes at `pc` may be fetched. -/
theorem accessFault_fetch {s : State} (h : Allowed s.config .fetch s.pc 4) :
    accessFault s.config .fetch s.fetchAddrs s.pc = none := by
  rw [accessFault_eq_none]
  intro a ha
  obtain ⟨k, hk, rfl⟩ := (s.mem_fetchAddrs a).mp ha
  exact h k hk

/-- A step whose fetch succeeds answers by what the decoder answers. -/
theorem step_fetched {s : State} (h0 : s.exc = none) (h1 : s.pc.toNat % 4 = 0) (h2 : Allowed s.config .fetch s.pc 4)
    (h3 : ∀ k, k < 4 → (s.pc + BitVec.ofNat 64 k).toNat ∉ s.stored) :
    step s = match decode s.config (BitVec.ofNat 32 (memValue s s.pc 4)) with
      | .ok i => exec i s
      | .error (.mustBeZeroField i) => .refused (.mustBeZeroField i) := by
  rw [step, fetchAndRun, h0, (aligned_iff _ _).mpr h1, accessFault_fetch h2, State.fetchStored_eq_false h3,
    ← State.fetched_eq]
  rfl

/-! ### Placing bytes (log entry 16) -/

/-- Placing bytes changes memory and the list of addresses stored to alone. -/
theorem State.place_eq (l : List (Addr × Byte)) (s : State) :
    s.place l = { s with mem := (s.place l).mem, stored := (s.place l).stored } := by
  induction l generalizing s with
  | nil => rfl
  | cons e l ih => rw [State.place, ih]; rfl

/-- The addresses stored to after bytes are placed. -/
theorem State.place_stored (l : List (Addr × Byte)) (s : State) (k : Nat) :
    k ∈ (s.place l).stored ↔ k ∈ s.stored ∧ ∀ p ∈ l, k ≠ p.1.toNat := by
  induction l generalizing s with
  | nil => simp [State.place]
  | cons e l ih =>
    have h : k ∈ (s.placeByte e.1 e.2).stored ↔ k ∈ s.stored ∧ k ≠ e.1.toNat := by simp [State.placeByte]
    rw [State.place, ih, h]
    simp [and_assoc]

/-- A byte elsewhere is unchanged by placing bytes. -/
theorem State.place_byteAt_other (l : List (Addr × Byte)) (s : State) {c : Addr} (h : ∀ p ∈ l, c ≠ p.1) :
    (s.place l).byteAt c = s.byteAt c := by
  induction l generalizing s with
  | nil => rfl
  | cons e l ih =>
    have he := h e (by simp)
    rw [State.place, ih _ (fun p hp => h p (by simp [hp])), State.placeByte_byteAt, if_neg he]

/-- A byte placed is read back, where the addresses differ from one another. -/
theorem State.place_byteAt_mem (l : List (Addr × Byte)) (s : State) (hl : l.Pairwise fun p q => p.1 ≠ q.1)
    {p : Addr × Byte} (hp : p ∈ l) : (s.place l).byteAt p.1 = p.2 := by
  induction l generalizing s with
  | nil => simp at hp
  | cons e l ih =>
    rw [List.pairwise_cons] at hl
    rw [State.place]
    rcases List.mem_cons.mp hp with rfl | hp
    · rw [State.place_byteAt_other l _ hl.1, State.placeByte_byteAt, if_pos rfl]
    · exact ih _ hl.2 hp

end Sys2Proof.Machine
end

