-- ==== Sys2Proof/Laws/PerInstr.lean ====
section
/-! SUPPORT. The family EncodesRow: every instruction's word has the fixed bits of its row of spec/opcode_table.json, the
must-be-zero bits among them (30_encoding.md R75, R79). The rows are written out here from the table, apart from the encoder. -/

set_option Elab.async false

namespace Sys2Proof

/-- `strict_mask` of the row: the bits that the row fixes. -/
def strictMask : Instr → Word
  | .j .. | .jal .. | .beq .. | .bne .. | .addi .. | .addiu .. | .slti .. | .sltiu .. | .andi .. | .ori ..
  | .xori .. | .cop0 .. | .cop1 .. | .cop2 .. | .cop1x .. | .beql .. | .bnel .. | .daddi .. | .daddiu ..
  | .ldl .. | .ldr .. | .lb .. | .lh .. | .lwl .. | .lw .. | .lbu .. | .lhu .. | .lwr .. | .lwu .. | .sb ..
  | .sh .. | .swl .. | .sw .. | .sdl .. | .sdr .. | .swr .. | .rho .. | .ll .. | .lwc1 .. | .lwc2 .. | .pref ..
  | .lld .. | .ldc1 .. | .ldc2 .. | .ld .. | .sc .. | .swc1 .. | .swc2 .. | .scd .. | .sdc1 .. | .sdc2 ..
  | .sd .. | .reservedOp011100 .. | .reservedOp011101 .. | .reservedOp011110 .. | .reservedOp011111 ..
  | .reservedOp111011 .. | .cop3 .. | .lwc3 .. | .swc3 .. | .ldc3 .. | .sdc3 .. => 0xFC000000
  | .movci .. | .syscall .. | .break_ .. | .tge .. | .tgeu .. | .tlt .. | .tltu .. | .teq .. | .tne ..
  | .reservedSpecial000101 .. | .reservedSpecial001110 .. | .reservedSpecial010101 ..
  | .reservedSpecial101000 .. | .reservedSpecial101001 .. | .reservedSpecial110101 ..
  | .reservedSpecial110111 .. | .reservedSpecial111001 .. | .reservedSpecial111101 .. => 0xFC00003F
  | .sllv .. | .srlv .. | .srav .. | .movz .. | .movn .. | .dsllv .. | .dsrlv .. | .dsrav .. | .add ..
  | .addu .. | .sub .. | .subu .. | .and_ .. | .or_ .. | .xor_ .. | .nor .. | .slt .. | .sltu .. | .dadd ..
  | .daddu .. | .dsub .. | .dsubu .. => 0xFC0007FF
  | .mult .. | .multu .. | .div .. | .divu .. | .dmult .. | .dmultu .. | .ddiv .. | .ddivu .. => 0xFC00FFFF
  | .blez .. | .bgtz .. | .blezl .. | .bgtzl .. | .bltz .. | .bgez .. | .bltzl .. | .bgezl .. | .tgei ..
  | .tgeiu .. | .tlti .. | .tltiu .. | .teqi .. | .tnei .. | .bltzal .. | .bgezal .. | .bltzall ..
  | .bgezall .. | .reservedRegimm00100 .. | .reservedRegimm00101 .. | .reservedRegimm00110 ..
  | .reservedRegimm00111 .. | .reservedRegimm01101 .. | .reservedRegimm01111 .. | .reservedRegimm10100 ..
  | .reservedRegimm10101 .. | .reservedRegimm10110 .. | .reservedRegimm10111 .. | .reservedRegimm11000 ..
  | .reservedRegimm11001 .. | .reservedRegimm11010 .. | .reservedRegimm11011 .. | .reservedRegimm11100 ..
  | .reservedRegimm11101 .. | .reservedRegimm11110 .. | .reservedRegimm11111 .. => 0xFC1F0000
  | .jalr .. => 0xFC1F07FF
  | .jr .. | .mthi .. | .mtlo .. => 0xFC1FFFFF
  | .lui .. => 0xFFE00000
  | .sll .. | .srl .. | .sra .. | .dsll .. | .dsrl .. | .dsra .. | .dsll32 .. | .dsrl32 .. | .dsra32 .. => 0xFFE0003F
  | .mfhi .. | .mflo .. => 0xFFFF07FF
  | .sync .. => 0xFFFFFFFF

/-- `strict_match` of the row: the values of those bits. -/
def strictMatch : Instr → Word
  | .j .. => 0x08000000
  | .jal .. => 0x0C000000
  | .beq .. => 0x10000000
  | .bne .. => 0x14000000
  | .blez .. => 0x18000000
  | .bgtz .. => 0x1C000000
  | .addi .. => 0x20000000
  | .addiu .. => 0x24000000
  | .slti .. => 0x28000000
  | .sltiu .. => 0x2C000000
  | .andi .. => 0x30000000
  | .ori .. => 0x34000000
  | .xori .. => 0x38000000
  | .lui .. => 0x3C000000
  | .cop0 .. => 0x40000000
  | .cop1 .. => 0x44000000
  | .cop2 .. => 0x48000000
  | .cop1x .. => 0x4C000000
  | .beql .. => 0x50000000
  | .bnel .. => 0x54000000
  | .blezl .. => 0x58000000
  | .bgtzl .. => 0x5C000000
  | .daddi .. => 0x60000000
  | .daddiu .. => 0x64000000
  | .ldl .. => 0x68000000
  | .ldr .. => 0x6C000000
  | .lb .. => 0x80000000
  | .lh .. => 0x84000000
  | .lwl .. => 0x88000000
  | .lw .. => 0x8C000000
  | .lbu .. => 0x90000000
  | .lhu .. => 0x94000000
  | .lwr .. => 0x98000000
  | .lwu .. => 0x9C000000
  | .sb .. => 0xA0000000
  | .sh .. => 0xA4000000
  | .swl .. => 0xA8000000
  | .sw .. => 0xAC000000
  | .sdl .. => 0xB0000000
  | .sdr .. => 0xB4000000
  | .swr .. => 0xB8000000
  | .rho .. => 0xBC000000
  | .ll .. => 0xC0000000
  | .lwc1 .. => 0xC4000000
  | .lwc2 .. => 0xC8000000
  | .pref .. => 0xCC000000
  | .lld .. => 0xD0000000
  | .ldc1 .. => 0xD4000000
  | .ldc2 .. => 0xD8000000
  | .ld .. => 0xDC000000
  | .sc .. => 0xE0000000
  | .swc1 .. => 0xE4000000
  | .swc2 .. => 0xE8000000
  | .scd .. => 0xF0000000
  | .sdc1 .. => 0xF4000000
  | .sdc2 .. => 0xF8000000
  | .sd .. => 0xFC000000
  | .sll .. => 0x00000000
  | .movci .. => 0x00000001
  | .srl .. => 0x00000002
  | .sra .. => 0x00000003
  | .sllv .. => 0x00000004
  | .srlv .. => 0x00000006
  | .srav .. => 0x00000007
  | .jr .. => 0x00000008
  | .jalr .. => 0x00000009
  | .movz .. => 0x0000000A
  | .movn .. => 0x0000000B
  | .syscall .. => 0x0000000C
  | .break_ .. => 0x0000000D
  | .sync .. => 0x0000000F
  | .mfhi .. => 0x00000010
  | .mthi .. => 0x00000011
  | .mflo .. => 0x00000012
  | .mtlo .. => 0x00000013
  | .dsllv .. => 0x00000014
  | .dsrlv .. => 0x00000016
  | .dsrav .. => 0x00000017
  | .mult .. => 0x00000018
  | .multu .. => 0x00000019
  | .div .. => 0x0000001A
  | .divu .. => 0x0000001B
  | .dmult .. => 0x0000001C
  | .dmultu .. => 0x0000001D
  | .ddiv .. => 0x0000001E
  | .ddivu .. => 0x0000001F
  | .add .. => 0x00000020
  | .addu .. => 0x00000021
  | .sub .. => 0x00000022
  | .subu .. => 0x00000023
  | .and_ .. => 0x00000024
  | .or_ .. => 0x00000025
  | .xor_ .. => 0x00000026
  | .nor .. => 0x00000027
  | .slt .. => 0x0000002A
  | .sltu .. => 0x0000002B
  | .dadd .. => 0x0000002C
  | .daddu .. => 0x0000002D
  | .dsub .. => 0x0000002E
  | .dsubu .. => 0x0000002F
  | .tge .. => 0x00000030
  | .tgeu .. => 0x00000031
  | .tlt .. => 0x00000032
  | .tltu .. => 0x00000033
  | .teq .. => 0x00000034
  | .tne .. => 0x00000036
  | .dsll .. => 0x00000038
  | .dsrl .. => 0x0000003A
  | .dsra .. => 0x0000003B
  | .dsll32 .. => 0x0000003C
  | .dsrl32 .. => 0x0000003E
  | .dsra32 .. => 0x0000003F
  | .bltz .. => 0x04000000
  | .bgez .. => 0x04010000
  | .bltzl .. => 0x04020000
  | .bgezl .. => 0x04030000
  | .tgei .. => 0x04080000
  | .tgeiu .. => 0x04090000
  | .tlti .. => 0x040A0000
  | .tltiu .. => 0x040B0000
  | .teqi .. => 0x040C0000
  | .tnei .. => 0x040E0000
  | .bltzal .. => 0x04100000
  | .bgezal .. => 0x04110000
  | .bltzall .. => 0x04120000
  | .bgezall .. => 0x04130000
  | .reservedOp011100 .. => 0x70000000
  | .reservedOp011101 .. => 0x74000000
  | .reservedOp011110 .. => 0x78000000
  | .reservedOp011111 .. => 0x7C000000
  | .reservedOp111011 .. => 0xEC000000
  | .reservedSpecial000101 .. => 0x00000005
  | .reservedSpecial001110 .. => 0x0000000E
  | .reservedSpecial010101 .. => 0x00000015
  | .reservedSpecial101000 .. => 0x00000028
  | .reservedSpecial101001 .. => 0x00000029
  | .reservedSpecial110101 .. => 0x00000035
  | .reservedSpecial110111 .. => 0x00000037
  | .reservedSpecial111001 .. => 0x00000039
  | .reservedSpecial111101 .. => 0x0000003D
  | .reservedRegimm00100 .. => 0x04040000
  | .reservedRegimm00101 .. => 0x04050000
  | .reservedRegimm00110 .. => 0x04060000
  | .reservedRegimm00111 .. => 0x04070000
  | .reservedRegimm01101 .. => 0x040D0000
  | .reservedRegimm01111 .. => 0x040F0000
  | .reservedRegimm10100 .. => 0x04140000
  | .reservedRegimm10101 .. => 0x04150000
  | .reservedRegimm10110 .. => 0x04160000
  | .reservedRegimm10111 .. => 0x04170000
  | .reservedRegimm11000 .. => 0x04180000
  | .reservedRegimm11001 .. => 0x04190000
  | .reservedRegimm11010 .. => 0x041A0000
  | .reservedRegimm11011 .. => 0x041B0000
  | .reservedRegimm11100 .. => 0x041C0000
  | .reservedRegimm11101 .. => 0x041D0000
  | .reservedRegimm11110 .. => 0x041E0000
  | .reservedRegimm11111 .. => 0x041F0000
  | .cop3 .. => 0x4C000000
  | .lwc3 .. => 0xCC000000
  | .swc3 .. => 0xEC000000
  | .ldc3 .. => 0xDC000000
  | .sdc3 .. => 0xFC000000

/-! ### Masked fields -/

/-- The fields of J-type words are masked one by one. -/
theorem jType_and (o o' : BitVec 6) (x x' : BitVec 26) : jType o x &&& jType o' x' = jType (o &&& o') (x &&& x') := by
  simp only [jType, ← BitVec.and_append]

/-- The fields of R-type words are masked one by one. -/
theorem rType_mask (m : BitVec 6) (a a' b b' c c' : RegIdx) (d d' : BitVec 5) (f f' : BitVec 6) :
    rType a b c d f &&& (m ++ a' ++ b' ++ c' ++ d' ++ f') =
      rType (a &&& a') (b &&& b') (c &&& c') (d &&& d') (f &&& f') := by
  have h : (0#6 &&& m) = 0#6 := by simp
  simp only [rType]
  rw [BitVec.and_append, BitVec.and_append, BitVec.and_append, BitVec.and_append, BitVec.and_append, h]

/-- The fields of trap words are masked one by one. -/
theorem trapType_mask (m : BitVec 6) (a a' b b' : RegIdx) (k k' : BitVec 10) (f f' : BitVec 6) :
    trapType a b k f &&& (m ++ a' ++ b' ++ k' ++ f') = trapType (a &&& a') (b &&& b') (k &&& k') (f &&& f') := by
  have h : (0#6 &&& m) = 0#6 := by simp
  simp only [trapType]
  rw [BitVec.and_append, BitVec.and_append, BitVec.and_append, BitVec.and_append, h]

/-- The fields of code words are masked one by one. -/
theorem codeType_mask (m : BitVec 6) (c c' : BitVec 20) (f f' : BitVec 6) :
    codeType c f &&& (m ++ c' ++ f') = codeType (c &&& c') (f &&& f') := by
  have h : (0#6 &&& m) = 0#6 := by simp
  simp only [codeType]
  rw [BitVec.and_append, BitVec.and_append, h]

/-- A field that the mask drops. -/
theorem and_none {n : Nat} (x : BitVec n) : x &&& 0 = 0 := by simp

/-- A field that the mask keeps. -/
theorem and_all {n : Nat} (x : BitVec n) : x &&& BitVec.allOnes n = x := by simp

/-! ### The masks of the table on the formats -/

theorem codeType_FC00003F (c : BitVec 20) (f : BitVec 6) :
    codeType c f &&& 0xFC00003F = codeType 0 f := by
  rw [show (0xFC00003F : Word) = BitVec.allOnes 6 ++ (0 : BitVec 20) ++ BitVec.allOnes 6 by decide, codeType_mask]
  simp only [and_none, and_all]

theorem iType_FC000000 (o : BitVec 6) (rs : RegIdx) (rt : RegIdx) (imm : BitVec 16) :
    iType o rs rt imm &&& 0xFC000000 = iType o 0 0 0 := by
  rw [show (0xFC000000 : Word) = iType (BitVec.allOnes 6) 0 0 0 by decide, iType_and]
  simp only [and_none, and_all]

theorem iType_FC1F0000 (o : BitVec 6) (rs : RegIdx) (rt : RegIdx) (imm : BitVec 16) :
    iType o rs rt imm &&& 0xFC1F0000 = iType o 0 rt 0 := by
  rw [show (0xFC1F0000 : Word) = iType (BitVec.allOnes 6) 0 (BitVec.allOnes 5) 0 by decide, iType_and]
  simp only [and_none, and_all]

theorem iType_FFE00000 (o : BitVec 6) (rs : RegIdx) (rt : RegIdx) (imm : BitVec 16) :
    iType o rs rt imm &&& 0xFFE00000 = iType o rs 0 0 := by
  rw [show (0xFFE00000 : Word) = iType (BitVec.allOnes 6) (BitVec.allOnes 5) 0 0 by decide, iType_and]
  simp only [and_none, and_all]

theorem jType_FC000000 (o : BitVec 6) (x : BitVec 26) :
    jType o x &&& 0xFC000000 = jType o 0 := by
  rw [show (0xFC000000 : Word) = jType (BitVec.allOnes 6) 0 by decide, jType_and]
  simp only [and_none, and_all]

theorem rType_FC0007FF (rs : RegIdx) (rt : RegIdx) (rd : RegIdx) (sa : BitVec 5) (f : BitVec 6) :
    rType rs rt rd sa f &&& 0xFC0007FF = rType 0 0 0 sa f := by
  rw [show (0xFC0007FF : Word) = BitVec.allOnes 6 ++ (0 : BitVec 5) ++ (0 : BitVec 5) ++ (0 : BitVec 5) ++ BitVec.allOnes 5 ++ BitVec.allOnes 6 by decide, rType_mask]
  simp only [and_none, and_all]

theorem rType_FC00FFFF (rs : RegIdx) (rt : RegIdx) (rd : RegIdx) (sa : BitVec 5) (f : BitVec 6) :
    rType rs rt rd sa f &&& 0xFC00FFFF = rType 0 0 rd sa f := by
  rw [show (0xFC00FFFF : Word) = BitVec.allOnes 6 ++ (0 : BitVec 5) ++ (0 : BitVec 5) ++ BitVec.allOnes 5 ++ BitVec.allOnes 5 ++ BitVec.allOnes 6 by decide, rType_mask]
  simp only [and_none, and_all]

theorem rType_FC1F07FF (rs : RegIdx) (rt : RegIdx) (rd : RegIdx) (sa : BitVec 5) (f : BitVec 6) :
    rType rs rt rd sa f &&& 0xFC1F07FF = rType 0 rt 0 sa f := by
  rw [show (0xFC1F07FF : Word) = BitVec.allOnes 6 ++ (0 : BitVec 5) ++ BitVec.allOnes 5 ++ (0 : BitVec 5) ++ BitVec.allOnes 5 ++ BitVec.allOnes 6 by decide, rType_mask]
  simp only [and_none, and_all]

theorem rType_FC1FFFFF (rs : RegIdx) (rt : RegIdx) (rd : RegIdx) (sa : BitVec 5) (f : BitVec 6) :
    rType rs rt rd sa f &&& 0xFC1FFFFF = rType 0 rt rd sa f := by
  rw [show (0xFC1FFFFF : Word) = BitVec.allOnes 6 ++ (0 : BitVec 5) ++ BitVec.allOnes 5 ++ BitVec.allOnes 5 ++ BitVec.allOnes 5 ++ BitVec.allOnes 6 by decide, rType_mask]
  simp only [and_none, and_all]

theorem rType_FFE0003F (rs : RegIdx) (rt : RegIdx) (rd : RegIdx) (sa : BitVec 5) (f : BitVec 6) :
    rType rs rt rd sa f &&& 0xFFE0003F = rType rs 0 0 0 f := by
  rw [show (0xFFE0003F : Word) = BitVec.allOnes 6 ++ BitVec.allOnes 5 ++ (0 : BitVec 5) ++ (0 : BitVec 5) ++ (0 : BitVec 5) ++ BitVec.allOnes 6 by decide, rType_mask]
  simp only [and_none, and_all]

theorem rType_FFFF07FF (rs : RegIdx) (rt : RegIdx) (rd : RegIdx) (sa : BitVec 5) (f : BitVec 6) :
    rType rs rt rd sa f &&& 0xFFFF07FF = rType rs rt 0 sa f := by
  rw [show (0xFFFF07FF : Word) = BitVec.allOnes 6 ++ BitVec.allOnes 5 ++ BitVec.allOnes 5 ++ (0 : BitVec 5) ++ BitVec.allOnes 5 ++ BitVec.allOnes 6 by decide, rType_mask]
  simp only [and_none, and_all]

theorem rType_FFFFFFFF (rs : RegIdx) (rt : RegIdx) (rd : RegIdx) (sa : BitVec 5) (f : BitVec 6) :
    rType rs rt rd sa f &&& 0xFFFFFFFF = rType rs rt rd sa f := by
  rw [show (0xFFFFFFFF : Word) = BitVec.allOnes 6 ++ BitVec.allOnes 5 ++ BitVec.allOnes 5 ++ BitVec.allOnes 5 ++ BitVec.allOnes 5 ++ BitVec.allOnes 6 by decide, rType_mask]
  simp only [and_all]

theorem trapType_FC00003F (rs : RegIdx) (rt : RegIdx) (k : BitVec 10) (f : BitVec 6) :
    trapType rs rt k f &&& 0xFC00003F = trapType 0 0 0 f := by
  rw [show (0xFC00003F : Word) = BitVec.allOnes 6 ++ (0 : BitVec 5) ++ (0 : BitVec 5) ++ (0 : BitVec 10) ++ BitVec.allOnes 6 by decide, trapType_mask]
  simp only [and_none, and_all]

end Sys2Proof

namespace Sys2Proof.Laws.EncodesRow

/-- The instruction's word has the fixed bits of its row. -/
def Statement (i : Instr) : Prop := encode i &&& strictMask i = strictMatch i

theorem j (index : BitVec 26) : Statement (.j index) :=
  (jType_FC000000 ..).trans (by rw [strictMatch]; decide)
theorem jal (index : BitVec 26) : Statement (.jal index) :=
  (jType_FC000000 ..).trans (by rw [strictMatch]; decide)
theorem beq (rs rt : RegIdx) (offset : BitVec 16) : Statement (.beq rs rt offset) :=
  (iType_FC000000 ..).trans (by rw [strictMatch]; decide)
theorem bne (rs rt : RegIdx) (offset : BitVec 16) : Statement (.bne rs rt offset) :=
  (iType_FC000000 ..).trans (by rw [strictMatch]; decide)
theorem blez (rs : RegIdx) (offset : BitVec 16) : Statement (.blez rs offset) :=
  (iType_FC1F0000 ..).trans (by rw [strictMatch]; decide)
theorem bgtz (rs : RegIdx) (offset : BitVec 16) : Statement (.bgtz rs offset) :=
  (iType_FC1F0000 ..).trans (by rw [strictMatch]; decide)
theorem addi (rt rs : RegIdx) (imm : BitVec 16) : Statement (.addi rt rs imm) :=
  (iType_FC000000 ..).trans (by rw [strictMatch]; decide)
theorem addiu (rt rs : RegIdx) (imm : BitVec 16) : Statement (.addiu rt rs imm) :=
  (iType_FC000000 ..).trans (by rw [strictMatch]; decide)
theorem slti (rt rs : RegIdx) (imm : BitVec 16) : Statement (.slti rt rs imm) :=
  (iType_FC000000 ..).trans (by rw [strictMatch]; decide)
theorem sltiu (rt rs : RegIdx) (imm : BitVec 16) : Statement (.sltiu rt rs imm) :=
  (iType_FC000000 ..).trans (by rw [strictMatch]; decide)
theorem andi (rt rs : RegIdx) (imm : BitVec 16) : Statement (.andi rt rs imm) :=
  (iType_FC000000 ..).trans (by rw [strictMatch]; decide)
theorem ori (rt rs : RegIdx) (imm : BitVec 16) : Statement (.ori rt rs imm) :=
  (iType_FC000000 ..).trans (by rw [strictMatch]; decide)
theorem xori (rt rs : RegIdx) (imm : BitVec 16) : Statement (.xori rt rs imm) :=
  (iType_FC000000 ..).trans (by rw [strictMatch]; decide)
theorem lui (rt : RegIdx) (imm : BitVec 16) : Statement (.lui rt imm) :=
  (iType_FFE00000 ..).trans (by rw [strictMatch]; decide)
theorem cop0 (rest : BitVec 26) : Statement (.cop0 rest) :=
  (jType_FC000000 ..).trans (by rw [strictMatch]; decide)
theorem cop1 (rest : BitVec 26) : Statement (.cop1 rest) :=
  (jType_FC000000 ..).trans (by rw [strictMatch]; decide)
theorem cop2 (rest : BitVec 26) : Statement (.cop2 rest) :=
  (jType_FC000000 ..).trans (by rw [strictMatch]; decide)
theorem cop1x (rest : BitVec 26) : Statement (.cop1x rest) :=
  (jType_FC000000 ..).trans (by rw [strictMatch]; decide)
theorem beql (rs rt : RegIdx) (offset : BitVec 16) : Statement (.beql rs rt offset) :=
  (iType_FC000000 ..).trans (by rw [strictMatch]; decide)
theorem bnel (rs rt : RegIdx) (offset : BitVec 16) : Statement (.bnel rs rt offset) :=
  (iType_FC000000 ..).trans (by rw [strictMatch]; decide)
theorem blezl (rs : RegIdx) (offset : BitVec 16) : Statement (.blezl rs offset) :=
  (iType_FC1F0000 ..).trans (by rw [strictMatch]; decide)
theorem bgtzl (rs : RegIdx) (offset : BitVec 16) : Statement (.bgtzl rs offset) :=
  (iType_FC1F0000 ..).trans (by rw [strictMatch]; decide)
theorem daddi (rt rs : RegIdx) (imm : BitVec 16) : Statement (.daddi rt rs imm) :=
  (iType_FC000000 ..).trans (by rw [strictMatch]; decide)
theorem daddiu (rt rs : RegIdx) (imm : BitVec 16) : Statement (.daddiu rt rs imm) :=
  (iType_FC000000 ..).trans (by rw [strictMatch]; decide)
theorem ldl (rt : RegIdx) (offset : BitVec 16) (base : RegIdx) : Statement (.ldl rt offset base) :=
  (iType_FC000000 ..).trans (by rw [strictMatch]; decide)
theorem ldr (rt : RegIdx) (offset : BitVec 16) (base : RegIdx) : Statement (.ldr rt offset base) :=
  (iType_FC000000 ..).trans (by rw [strictMatch]; decide)
theorem lb (rt : RegIdx) (offset : BitVec 16) (base : RegIdx) : Statement (.lb rt offset base) :=
  (iType_FC000000 ..).trans (by rw [strictMatch]; decide)
theorem lh (rt : RegIdx) (offset : BitVec 16) (base : RegIdx) : Statement (.lh rt offset base) :=
  (iType_FC000000 ..).trans (by rw [strictMatch]; decide)
theorem lwl (rt : RegIdx) (offset : BitVec 16) (base : RegIdx) : Statement (.lwl rt offset base) :=
  (iType_FC000000 ..).trans (by rw [strictMatch]; decide)
theorem lw (rt : RegIdx) (offset : BitVec 16) (base : RegIdx) : Statement (.lw rt offset base) :=
  (iType_FC000000 ..).trans (by rw [strictMatch]; decide)
theorem lbu (rt : RegIdx) (offset : BitVec 16) (base : RegIdx) : Statement (.lbu rt offset base) :=
  (iType_FC000000 ..).trans (by rw [strictMatch]; decide)
theorem lhu (rt : RegIdx) (offset : BitVec 16) (base : RegIdx) : Statement (.lhu rt offset base) :=
  (iType_FC000000 ..).trans (by rw [strictMatch]; decide)
theorem lwr (rt : RegIdx) (offset : BitVec 16) (base : RegIdx) : Statement (.lwr rt offset base) :=
  (iType_FC000000 ..).trans (by rw [strictMatch]; decide)
theorem lwu (rt : RegIdx) (offset : BitVec 16) (base : RegIdx) : Statement (.lwu rt offset base) :=
  (iType_FC000000 ..).trans (by rw [strictMatch]; decide)
theorem sb (rt : RegIdx) (offset : BitVec 16) (base : RegIdx) : Statement (.sb rt offset base) :=
  (iType_FC000000 ..).trans (by rw [strictMatch]; decide)
theorem sh (rt : RegIdx) (offset : BitVec 16) (base : RegIdx) : Statement (.sh rt offset base) :=
  (iType_FC000000 ..).trans (by rw [strictMatch]; decide)
theorem swl (rt : RegIdx) (offset : BitVec 16) (base : RegIdx) : Statement (.swl rt offset base) :=
  (iType_FC000000 ..).trans (by rw [strictMatch]; decide)
theorem sw (rt : RegIdx) (offset : BitVec 16) (base : RegIdx) : Statement (.sw rt offset base) :=
  (iType_FC000000 ..).trans (by rw [strictMatch]; decide)
theorem sdl (rt : RegIdx) (offset : BitVec 16) (base : RegIdx) : Statement (.sdl rt offset base) :=
  (iType_FC000000 ..).trans (by rw [strictMatch]; decide)
theorem sdr (rt : RegIdx) (offset : BitVec 16) (base : RegIdx) : Statement (.sdr rt offset base) :=
  (iType_FC000000 ..).trans (by rw [strictMatch]; decide)
theorem swr (rt : RegIdx) (offset : BitVec 16) (base : RegIdx) : Statement (.swr rt offset base) :=
  (iType_FC000000 ..).trans (by rw [strictMatch]; decide)
theorem rho (rt : RegIdx) (offset : BitVec 16) (base : RegIdx) : Statement (.rho rt offset base) :=
  (iType_FC000000 ..).trans (by rw [strictMatch]; decide)
theorem ll (rt : RegIdx) (offset : BitVec 16) (base : RegIdx) : Statement (.ll rt offset base) :=
  (iType_FC000000 ..).trans (by rw [strictMatch]; decide)
theorem lwc1 (rt : RegIdx) (offset : BitVec 16) (base : RegIdx) : Statement (.lwc1 rt offset base) :=
  (iType_FC000000 ..).trans (by rw [strictMatch]; decide)
theorem lwc2 (rt : RegIdx) (offset : BitVec 16) (base : RegIdx) : Statement (.lwc2 rt offset base) :=
  (iType_FC000000 ..).trans (by rw [strictMatch]; decide)
theorem pref (hint : BitVec 5) (offset : BitVec 16) (base : RegIdx) : Statement (.pref hint offset base) :=
  (iType_FC000000 ..).trans (by rw [strictMatch]; decide)
theorem lld (rt : RegIdx) (offset : BitVec 16) (base : RegIdx) : Statement (.lld rt offset base) :=
  (iType_FC000000 ..).trans (by rw [strictMatch]; decide)
theorem ldc1 (rt : RegIdx) (offset : BitVec 16) (base : RegIdx) : Statement (.ldc1 rt offset base) :=
  (iType_FC000000 ..).trans (by rw [strictMatch]; decide)
theorem ldc2 (rt : RegIdx) (offset : BitVec 16) (base : RegIdx) : Statement (.ldc2 rt offset base) :=
  (iType_FC000000 ..).trans (by rw [strictMatch]; decide)
theorem ld (rt : RegIdx) (offset : BitVec 16) (base : RegIdx) : Statement (.ld rt offset base) :=
  (iType_FC000000 ..).trans (by rw [strictMatch]; decide)
theorem sc (rt : RegIdx) (offset : BitVec 16) (base : RegIdx) : Statement (.sc rt offset base) :=
  (iType_FC000000 ..).trans (by rw [strictMatch]; decide)
theorem swc1 (rt : RegIdx) (offset : BitVec 16) (base : RegIdx) : Statement (.swc1 rt offset base) :=
  (iType_FC000000 ..).trans (by rw [strictMatch]; decide)
theorem swc2 (rt : RegIdx) (offset : BitVec 16) (base : RegIdx) : Statement (.swc2 rt offset base) :=
  (iType_FC000000 ..).trans (by rw [strictMatch]; decide)
theorem scd (rt : RegIdx) (offset : BitVec 16) (base : RegIdx) : Statement (.scd rt offset base) :=
  (iType_FC000000 ..).trans (by rw [strictMatch]; decide)
theorem sdc1 (rt : RegIdx) (offset : BitVec 16) (base : RegIdx) : Statement (.sdc1 rt offset base) :=
  (iType_FC000000 ..).trans (by rw [strictMatch]; decide)
theorem sdc2 (rt : RegIdx) (offset : BitVec 16) (base : RegIdx) : Statement (.sdc2 rt offset base) :=
  (iType_FC000000 ..).trans (by rw [strictMatch]; decide)
theorem sd (rt : RegIdx) (offset : BitVec 16) (base : RegIdx) : Statement (.sd rt offset base) :=
  (iType_FC000000 ..).trans (by rw [strictMatch]; decide)
theorem sll (rd rt : RegIdx) (sa : BitVec 5) : Statement (.sll rd rt sa) :=
  (rType_FFE0003F ..).trans (by rw [strictMatch]; decide)
theorem movci (rest : BitVec 20) : Statement (.movci rest) :=
  (codeType_FC00003F ..).trans (by rw [strictMatch]; decide)
theorem srl (rd rt : RegIdx) (sa : BitVec 5) : Statement (.srl rd rt sa) :=
  (rType_FFE0003F ..).trans (by rw [strictMatch]; decide)
theorem sra (rd rt : RegIdx) (sa : BitVec 5) : Statement (.sra rd rt sa) :=
  (rType_FFE0003F ..).trans (by rw [strictMatch]; decide)
theorem sllv (rd rt rs : RegIdx) : Statement (.sllv rd rt rs) :=
  (rType_FC0007FF ..).trans (by rw [strictMatch]; decide)
theorem srlv (rd rt rs : RegIdx) : Statement (.srlv rd rt rs) :=
  (rType_FC0007FF ..).trans (by rw [strictMatch]; decide)
theorem srav (rd rt rs : RegIdx) : Statement (.srav rd rt rs) :=
  (rType_FC0007FF ..).trans (by rw [strictMatch]; decide)
theorem jr (rs : RegIdx) : Statement (.jr rs) :=
  (rType_FC1FFFFF ..).trans (by rw [strictMatch]; decide)
theorem jalr (rd rs : RegIdx) : Statement (.jalr rd rs) :=
  (rType_FC1F07FF ..).trans (by rw [strictMatch]; decide)
theorem movz (rd rs rt : RegIdx) : Statement (.movz rd rs rt) :=
  (rType_FC0007FF ..).trans (by rw [strictMatch]; decide)
theorem movn (rd rs rt : RegIdx) : Statement (.movn rd rs rt) :=
  (rType_FC0007FF ..).trans (by rw [strictMatch]; decide)
theorem syscall (code : BitVec 20) : Statement (.syscall code) :=
  (codeType_FC00003F ..).trans (by rw [strictMatch]; decide)
theorem break_ (code : BitVec 20) : Statement (.break_ code) :=
  (codeType_FC00003F ..).trans (by rw [strictMatch]; decide)
theorem sync : Statement .sync :=
  (rType_FFFFFFFF ..).trans (by rw [strictMatch]; decide)
theorem mfhi (rd : RegIdx) : Statement (.mfhi rd) :=
  (rType_FFFF07FF ..).trans (by rw [strictMatch]; decide)
theorem mthi (rs : RegIdx) : Statement (.mthi rs) :=
  (rType_FC1FFFFF ..).trans (by rw [strictMatch]; decide)
theorem mflo (rd : RegIdx) : Statement (.mflo rd) :=
  (rType_FFFF07FF ..).trans (by rw [strictMatch]; decide)
theorem mtlo (rs : RegIdx) : Statement (.mtlo rs) :=
  (rType_FC1FFFFF ..).trans (by rw [strictMatch]; decide)
theorem dsllv (rd rt rs : RegIdx) : Statement (.dsllv rd rt rs) :=
  (rType_FC0007FF ..).trans (by rw [strictMatch]; decide)
theorem dsrlv (rd rt rs : RegIdx) : Statement (.dsrlv rd rt rs) :=
  (rType_FC0007FF ..).trans (by rw [strictMatch]; decide)
theorem dsrav (rd rt rs : RegIdx) : Statement (.dsrav rd rt rs) :=
  (rType_FC0007FF ..).trans (by rw [strictMatch]; decide)
theorem mult (rs rt : RegIdx) : Statement (.mult rs rt) :=
  (rType_FC00FFFF ..).trans (by rw [strictMatch]; decide)
theorem multu (rs rt : RegIdx) : Statement (.multu rs rt) :=
  (rType_FC00FFFF ..).trans (by rw [strictMatch]; decide)
theorem div (rs rt : RegIdx) : Statement (.div rs rt) :=
  (rType_FC00FFFF ..).trans (by rw [strictMatch]; decide)
theorem divu (rs rt : RegIdx) : Statement (.divu rs rt) :=
  (rType_FC00FFFF ..).trans (by rw [strictMatch]; decide)
theorem dmult (rs rt : RegIdx) : Statement (.dmult rs rt) :=
  (rType_FC00FFFF ..).trans (by rw [strictMatch]; decide)
theorem dmultu (rs rt : RegIdx) : Statement (.dmultu rs rt) :=
  (rType_FC00FFFF ..).trans (by rw [strictMatch]; decide)
theorem ddiv (rs rt : RegIdx) : Statement (.ddiv rs rt) :=
  (rType_FC00FFFF ..).trans (by rw [strictMatch]; decide)
theorem ddivu (rs rt : RegIdx) : Statement (.ddivu rs rt) :=
  (rType_FC00FFFF ..).trans (by rw [strictMatch]; decide)
theorem add (rd rs rt : RegIdx) : Statement (.add rd rs rt) :=
  (rType_FC0007FF ..).trans (by rw [strictMatch]; decide)
theorem addu (rd rs rt : RegIdx) : Statement (.addu rd rs rt) :=
  (rType_FC0007FF ..).trans (by rw [strictMatch]; decide)
theorem sub (rd rs rt : RegIdx) : Statement (.sub rd rs rt) :=
  (rType_FC0007FF ..).trans (by rw [strictMatch]; decide)
theorem subu (rd rs rt : RegIdx) : Statement (.subu rd rs rt) :=
  (rType_FC0007FF ..).trans (by rw [strictMatch]; decide)
theorem and_ (rd rs rt : RegIdx) : Statement (.and_ rd rs rt) :=
  (rType_FC0007FF ..).trans (by rw [strictMatch]; decide)
theorem or_ (rd rs rt : RegIdx) : Statement (.or_ rd rs rt) :=
  (rType_FC0007FF ..).trans (by rw [strictMatch]; decide)
theorem xor_ (rd rs rt : RegIdx) : Statement (.xor_ rd rs rt) :=
  (rType_FC0007FF ..).trans (by rw [strictMatch]; decide)
theorem nor (rd rs rt : RegIdx) : Statement (.nor rd rs rt) :=
  (rType_FC0007FF ..).trans (by rw [strictMatch]; decide)
theorem slt (rd rs rt : RegIdx) : Statement (.slt rd rs rt) :=
  (rType_FC0007FF ..).trans (by rw [strictMatch]; decide)
theorem sltu (rd rs rt : RegIdx) : Statement (.sltu rd rs rt) :=
  (rType_FC0007FF ..).trans (by rw [strictMatch]; decide)
theorem dadd (rd rs rt : RegIdx) : Statement (.dadd rd rs rt) :=
  (rType_FC0007FF ..).trans (by rw [strictMatch]; decide)
theorem daddu (rd rs rt : RegIdx) : Statement (.daddu rd rs rt) :=
  (rType_FC0007FF ..).trans (by rw [strictMatch]; decide)
theorem dsub (rd rs rt : RegIdx) : Statement (.dsub rd rs rt) :=
  (rType_FC0007FF ..).trans (by rw [strictMatch]; decide)
theorem dsubu (rd rs rt : RegIdx) : Statement (.dsubu rd rs rt) :=
  (rType_FC0007FF ..).trans (by rw [strictMatch]; decide)
theorem tge (rs rt : RegIdx) (code : BitVec 10) : Statement (.tge rs rt code) :=
  (trapType_FC00003F ..).trans (by rw [strictMatch]; decide)
theorem tgeu (rs rt : RegIdx) (code : BitVec 10) : Statement (.tgeu rs rt code) :=
  (trapType_FC00003F ..).trans (by rw [strictMatch]; decide)
theorem tlt (rs rt : RegIdx) (code : BitVec 10) : Statement (.tlt rs rt code) :=
  (trapType_FC00003F ..).trans (by rw [strictMatch]; decide)
theorem tltu (rs rt : RegIdx) (code : BitVec 10) : Statement (.tltu rs rt code) :=
  (trapType_FC00003F ..).trans (by rw [strictMatch]; decide)
theorem teq (rs rt : RegIdx) (code : BitVec 10) : Statement (.teq rs rt code) :=
  (trapType_FC00003F ..).trans (by rw [strictMatch]; decide)
theorem tne (rs rt : RegIdx) (code : BitVec 10) : Statement (.tne rs rt code) :=
  (trapType_FC00003F ..).trans (by rw [strictMatch]; decide)
theorem dsll (rd rt : RegIdx) (sa : BitVec 5) : Statement (.dsll rd rt sa) :=
  (rType_FFE0003F ..).trans (by rw [strictMatch]; decide)
theorem dsrl (rd rt : RegIdx) (sa : BitVec 5) : Statement (.dsrl rd rt sa) :=
  (rType_FFE0003F ..).trans (by rw [strictMatch]; decide)
theorem dsra (rd rt : RegIdx) (sa : BitVec 5) : Statement (.dsra rd rt sa) :=
  (rType_FFE0003F ..).trans (by rw [strictMatch]; decide)
theorem dsll32 (rd rt : RegIdx) (sa : BitVec 5) : Statement (.dsll32 rd rt sa) :=
  (rType_FFE0003F ..).trans (by rw [strictMatch]; decide)
theorem dsrl32 (rd rt : RegIdx) (sa : BitVec 5) : Statement (.dsrl32 rd rt sa) :=
  (rType_FFE0003F ..).trans (by rw [strictMatch]; decide)
theorem dsra32 (rd rt : RegIdx) (sa : BitVec 5) : Statement (.dsra32 rd rt sa) :=
  (rType_FFE0003F ..).trans (by rw [strictMatch]; decide)
theorem bltz (rs : RegIdx) (offset : BitVec 16) : Statement (.bltz rs offset) :=
  (iType_FC1F0000 ..).trans (by rw [strictMatch]; decide)
theorem bgez (rs : RegIdx) (offset : BitVec 16) : Statement (.bgez rs offset) :=
  (iType_FC1F0000 ..).trans (by rw [strictMatch]; decide)
theorem bltzl (rs : RegIdx) (offset : BitVec 16) : Statement (.bltzl rs offset) :=
  (iType_FC1F0000 ..).trans (by rw [strictMatch]; decide)
theorem bgezl (rs : RegIdx) (offset : BitVec 16) : Statement (.bgezl rs offset) :=
  (iType_FC1F0000 ..).trans (by rw [strictMatch]; decide)
theorem tgei (rs : RegIdx) (imm : BitVec 16) : Statement (.tgei rs imm) :=
  (iType_FC1F0000 ..).trans (by rw [strictMatch]; decide)
theorem tgeiu (rs : RegIdx) (imm : BitVec 16) : Statement (.tgeiu rs imm) :=
  (iType_FC1F0000 ..).trans (by rw [strictMatch]; decide)
theorem tlti (rs : RegIdx) (imm : BitVec 16) : Statement (.tlti rs imm) :=
  (iType_FC1F0000 ..).trans (by rw [strictMatch]; decide)
theorem tltiu (rs : RegIdx) (imm : BitVec 16) : Statement (.tltiu rs imm) :=
  (iType_FC1F0000 ..).trans (by rw [strictMatch]; decide)
theorem teqi (rs : RegIdx) (imm : BitVec 16) : Statement (.teqi rs imm) :=
  (iType_FC1F0000 ..).trans (by rw [strictMatch]; decide)
theorem tnei (rs : RegIdx) (imm : BitVec 16) : Statement (.tnei rs imm) :=
  (iType_FC1F0000 ..).trans (by rw [strictMatch]; decide)
theorem bltzal (rs : RegIdx) (offset : BitVec 16) : Statement (.bltzal rs offset) :=
  (iType_FC1F0000 ..).trans (by rw [strictMatch]; decide)
theorem bgezal (rs : RegIdx) (offset : BitVec 16) : Statement (.bgezal rs offset) :=
  (iType_FC1F0000 ..).trans (by rw [strictMatch]; decide)
theorem bltzall (rs : RegIdx) (offset : BitVec 16) : Statement (.bltzall rs offset) :=
  (iType_FC1F0000 ..).trans (by rw [strictMatch]; decide)
theorem bgezall (rs : RegIdx) (offset : BitVec 16) : Statement (.bgezall rs offset) :=
  (iType_FC1F0000 ..).trans (by rw [strictMatch]; decide)
theorem reservedOp011100 (rest : BitVec 26) : Statement (.reservedOp011100 rest) :=
  (jType_FC000000 ..).trans (by rw [strictMatch]; decide)
theorem reservedOp011101 (rest : BitVec 26) : Statement (.reservedOp011101 rest) :=
  (jType_FC000000 ..).trans (by rw [strictMatch]; decide)
theorem reservedOp011110 (rest : BitVec 26) : Statement (.reservedOp011110 rest) :=
  (jType_FC000000 ..).trans (by rw [strictMatch]; decide)
theorem reservedOp011111 (rest : BitVec 26) : Statement (.reservedOp011111 rest) :=
  (jType_FC000000 ..).trans (by rw [strictMatch]; decide)
theorem reservedOp111011 (rest : BitVec 26) : Statement (.reservedOp111011 rest) :=
  (jType_FC000000 ..).trans (by rw [strictMatch]; decide)
theorem reservedSpecial000101 (rest : BitVec 20) : Statement (.reservedSpecial000101 rest) :=
  (codeType_FC00003F ..).trans (by rw [strictMatch]; decide)
theorem reservedSpecial001110 (rest : BitVec 20) : Statement (.reservedSpecial001110 rest) :=
  (codeType_FC00003F ..).trans (by rw [strictMatch]; decide)
theorem reservedSpecial010101 (rest : BitVec 20) : Statement (.reservedSpecial010101 rest) :=
  (codeType_FC00003F ..).trans (by rw [strictMatch]; decide)
theorem reservedSpecial101000 (rest : BitVec 20) : Statement (.reservedSpecial101000 rest) :=
  (codeType_FC00003F ..).trans (by rw [strictMatch]; decide)
theorem reservedSpecial101001 (rest : BitVec 20) : Statement (.reservedSpecial101001 rest) :=
  (codeType_FC00003F ..).trans (by rw [strictMatch]; decide)
theorem reservedSpecial110101 (rest : BitVec 20) : Statement (.reservedSpecial110101 rest) :=
  (codeType_FC00003F ..).trans (by rw [strictMatch]; decide)
theorem reservedSpecial110111 (rest : BitVec 20) : Statement (.reservedSpecial110111 rest) :=
  (codeType_FC00003F ..).trans (by rw [strictMatch]; decide)
theorem reservedSpecial111001 (rest : BitVec 20) : Statement (.reservedSpecial111001 rest) :=
  (codeType_FC00003F ..).trans (by rw [strictMatch]; decide)
theorem reservedSpecial111101 (rest : BitVec 20) : Statement (.reservedSpecial111101 rest) :=
  (codeType_FC00003F ..).trans (by rw [strictMatch]; decide)
theorem reservedRegimm00100 (rs : RegIdx) (imm : BitVec 16) : Statement (.reservedRegimm00100 rs imm) :=
  (iType_FC1F0000 ..).trans (by rw [strictMatch]; decide)
theorem reservedRegimm00101 (rs : RegIdx) (imm : BitVec 16) : Statement (.reservedRegimm00101 rs imm) :=
  (iType_FC1F0000 ..).trans (by rw [strictMatch]; decide)
theorem reservedRegimm00110 (rs : RegIdx) (imm : BitVec 16) : Statement (.reservedRegimm00110 rs imm) :=
  (iType_FC1F0000 ..).trans (by rw [strictMatch]; decide)
theorem reservedRegimm00111 (rs : RegIdx) (imm : BitVec 16) : Statement (.reservedRegimm00111 rs imm) :=
  (iType_FC1F0000 ..).trans (by rw [strictMatch]; decide)
theorem reservedRegimm01101 (rs : RegIdx) (imm : BitVec 16) : Statement (.reservedRegimm01101 rs imm) :=
  (iType_FC1F0000 ..).trans (by rw [strictMatch]; decide)
theorem reservedRegimm01111 (rs : RegIdx) (imm : BitVec 16) : Statement (.reservedRegimm01111 rs imm) :=
  (iType_FC1F0000 ..).trans (by rw [strictMatch]; decide)
theorem reservedRegimm10100 (rs : RegIdx) (imm : BitVec 16) : Statement (.reservedRegimm10100 rs imm) :=
  (iType_FC1F0000 ..).trans (by rw [strictMatch]; decide)
theorem reservedRegimm10101 (rs : RegIdx) (imm : BitVec 16) : Statement (.reservedRegimm10101 rs imm) :=
  (iType_FC1F0000 ..).trans (by rw [strictMatch]; decide)
theorem reservedRegimm10110 (rs : RegIdx) (imm : BitVec 16) : Statement (.reservedRegimm10110 rs imm) :=
  (iType_FC1F0000 ..).trans (by rw [strictMatch]; decide)
theorem reservedRegimm10111 (rs : RegIdx) (imm : BitVec 16) : Statement (.reservedRegimm10111 rs imm) :=
  (iType_FC1F0000 ..).trans (by rw [strictMatch]; decide)
theorem reservedRegimm11000 (rs : RegIdx) (imm : BitVec 16) : Statement (.reservedRegimm11000 rs imm) :=
  (iType_FC1F0000 ..).trans (by rw [strictMatch]; decide)
theorem reservedRegimm11001 (rs : RegIdx) (imm : BitVec 16) : Statement (.reservedRegimm11001 rs imm) :=
  (iType_FC1F0000 ..).trans (by rw [strictMatch]; decide)
theorem reservedRegimm11010 (rs : RegIdx) (imm : BitVec 16) : Statement (.reservedRegimm11010 rs imm) :=
  (iType_FC1F0000 ..).trans (by rw [strictMatch]; decide)
theorem reservedRegimm11011 (rs : RegIdx) (imm : BitVec 16) : Statement (.reservedRegimm11011 rs imm) :=
  (iType_FC1F0000 ..).trans (by rw [strictMatch]; decide)
theorem reservedRegimm11100 (rs : RegIdx) (imm : BitVec 16) : Statement (.reservedRegimm11100 rs imm) :=
  (iType_FC1F0000 ..).trans (by rw [strictMatch]; decide)
theorem reservedRegimm11101 (rs : RegIdx) (imm : BitVec 16) : Statement (.reservedRegimm11101 rs imm) :=
  (iType_FC1F0000 ..).trans (by rw [strictMatch]; decide)
theorem reservedRegimm11110 (rs : RegIdx) (imm : BitVec 16) : Statement (.reservedRegimm11110 rs imm) :=
  (iType_FC1F0000 ..).trans (by rw [strictMatch]; decide)
theorem reservedRegimm11111 (rs : RegIdx) (imm : BitVec 16) : Statement (.reservedRegimm11111 rs imm) :=
  (iType_FC1F0000 ..).trans (by rw [strictMatch]; decide)
theorem cop3 (rest : BitVec 26) : Statement (.cop3 rest) :=
  (jType_FC000000 ..).trans (by rw [strictMatch]; decide)
theorem lwc3 (rt : RegIdx) (offset : BitVec 16) (base : RegIdx) : Statement (.lwc3 rt offset base) :=
  (iType_FC000000 ..).trans (by rw [strictMatch]; decide)
theorem swc3 (rt : RegIdx) (offset : BitVec 16) (base : RegIdx) : Statement (.swc3 rt offset base) :=
  (iType_FC000000 ..).trans (by rw [strictMatch]; decide)
theorem ldc3 (rt : RegIdx) (offset : BitVec 16) (base : RegIdx) : Statement (.ldc3 rt offset base) :=
  (iType_FC000000 ..).trans (by rw [strictMatch]; decide)
theorem sdc3 (rt : RegIdx) (offset : BitVec 16) (base : RegIdx) : Statement (.sdc3 rt offset base) :=
  (iType_FC000000 ..).trans (by rw [strictMatch]; decide)

end Sys2Proof.Laws.EncodesRow
end

