-- ==== Sys2Proof/Laws/Values.lean ====
section
/-! SUPPORT. Shifts, products and quotients as numbers, and the multiplies and divides in the terms claims are stated in. -/

namespace Sys2Proof.Machine

/-! ### Shifts (44_shift.md R200, R201) -/

/-- The word shift left, as a number. -/
theorem shiftLeft32_eq (v : DWord) (n : Nat) : sext32 (low32 v <<< n) = sextWord (BitVec.ofNat 32 (v.toNat * 2 ^ n)) := by
  unfold sext32 sextWord low32
  congr 1
  apply BitVec.eq_of_toNat_eq
  rw [BitVec.toNat_shiftLeft, Nat.shiftLeft_eq, BitVec.toNat_setWidth, BitVec.toNat_ofNat, Nat.mod_mul_mod]

/-- The logical word shift right, as a number. -/
theorem shiftRight32_eq (v : DWord) (n : Nat) :
    sext32 (low32 v >>> n) = sextWord (BitVec.ofNat 32 (v.toNat % 2 ^ 32 / 2 ^ n)) := by
  unfold sext32 sextWord low32
  congr 1
  apply BitVec.eq_of_toNat_eq
  rw [BitVec.toNat_ushiftRight, Nat.shiftRight_eq_div_pow, BitVec.toNat_setWidth, BitVec.toNat_ofNat]
  exact (Nat.mod_eq_of_lt (lt_of_le_of_lt (Nat.div_le_self _ _) (Nat.mod_lt _ (by decide)))).symm

/-- The arithmetic word shift right of a word value, as a number. -/
theorem shiftArith32_eq {v : DWord} (h : IsWord v) (n : Nat) :
    sext32 ((low32 v).sshiftRight n) = BitVec.ofInt 64 (v.toInt / 2 ^ n) := by
  rw [sext32_eq_ofInt, BitVec.toInt_sshiftRight, h.toInt_low, Int.shiftRight_eq_div_pow]
  norm_cast

/-- The arithmetic doubleword shift right, as a number. -/
theorem shiftArith64_eq (v : DWord) (n : Nat) : v.sshiftRight n = BitVec.ofInt 64 (v.toInt / 2 ^ n) := by
  rw [← BitVec.ofInt_toInt (x := v.sshiftRight n), BitVec.toInt_sshiftRight, Int.shiftRight_eq_div_pow]
  norm_cast

/-- The doubleword shift left, as a number. -/
theorem shiftLeft64_eq (v : DWord) (n : Nat) : v <<< n = BitVec.ofNat 64 (v.toNat * 2 ^ n) := by
  apply BitVec.eq_of_toNat_eq
  rw [BitVec.toNat_shiftLeft, Nat.shiftLeft_eq, BitVec.toNat_ofNat]

/-- The logical doubleword shift right, as a number. -/
theorem shiftRight64_eq (v : DWord) (n : Nat) : v >>> n = BitVec.ofNat 64 (v.toNat / 2 ^ n) := by
  apply BitVec.eq_of_toNat_eq
  rw [BitVec.toNat_ushiftRight, Nat.shiftRight_eq_div_pow, BitVec.toNat_ofNat]
  exact (Nat.mod_eq_of_lt (lt_of_le_of_lt (Nat.div_le_self _ _) v.isLt)).symm

/-- The five-bit shift amount. -/
theorem amount5_eq (v : DWord) : amount5 v = v.toNat % 32 := by simp [amount5]

/-- The six-bit shift amount. -/
theorem amount6_eq (v : DWord) : amount6 v = v.toNat % 64 := by simp [amount6]

/-! ### Multiplies and divides in the terms of claims -/

/-- A multiply or divide whose result is defined. -/
theorem writesHiLo_of_finish {i : Instr} {s : State} {r : Option (DWord × DWord)} {hi lo : DWord}
    (h : exec i s = finishMulDiv s r) (hr : r = some (hi, lo)) : WritesHiLo i s hi lo := by
  subst hr
  exact ⟨_, h, rfl, rfl, rfl, fun _ _ => rfl, ⟨rfl, rfl, rfl, rfl⟩, ⟨fun _ => rfl, rfl⟩, ⟨rfl, rfl⟩,
    guardsCount_retire _ rfl rfl, rfl, rfl, rfl⟩

/-- A multiply or divide whose result is any value. -/
theorem writesHiLoAny_of_finish {i : Instr} {s : State} {r : Option (DWord × DWord)} (h : exec i s = finishMulDiv s r)
    (hr : r = none) : WritesHiLoAny i s := by
  subst hr
  exact ⟨s.draws, s.draws + 1, le_refl _, Nat.le_succ _, by omega, _, h, by simp, by simp, rfl, rfl, rfl, fun _ _ => rfl,
    ⟨rfl, rfl, rfl, rfl⟩, ⟨fun _ => rfl, rfl⟩, ⟨rfl, rfl⟩, guardsCount_retire _ rfl rfl, rfl, rfl, rfl⟩

/-- A word form on two word values. -/
theorem onWords_eq {a b : DWord} (h : IsWord a) (h' : IsWord b) (f : Word → Word → Option (DWord × DWord)) :
    onWords f a b = f (low32 a) (low32 b) := by
  simp [onWords, (isWordValue_iff _).mpr h, (isWordValue_iff _).mpr h']

/-- A word form on a value that is no word value. -/
theorem onWords_none {a b : DWord} (h : ¬(IsWord a ∧ IsWord b)) (f : Word → Word → Option (DWord × DWord)) :
    onWords f a b = none := by
  unfold onWords
  apply if_neg
  rw [Bool.and_eq_true, isWordValue_iff, isWordValue_iff]
  exact h

/-! ### Halves of products -/

/-- The low word as a number. -/
theorem low32_toNat (v : DWord) : (low32 v).toNat = v.toNat % 2 ^ 32 := BitVec.toNat_setWidth ..

/-- The upper half of a signed 64-bit product. -/
theorem upperHalf32_ofInt (p : Int) : (BitVec.ofInt 64 p).extractLsb' 32 32 = BitVec.ofInt 32 (p / 2 ^ 32) := by
  apply BitVec.eq_of_toNat_eq
  rw [field_toNat, BitVec.toNat_ofInt, BitVec.toNat_ofInt]; omega

/-- The lower half of a signed 64-bit product. -/
theorem lowerHalf32_ofInt (p : Int) : (BitVec.ofInt 64 p).extractLsb' 0 32 = BitVec.ofInt 32 p := by
  apply BitVec.eq_of_toNat_eq
  rw [field_toNat, BitVec.toNat_ofInt, BitVec.toNat_ofInt]; omega

/-- The upper half of an unsigned 64-bit product. -/
theorem upperHalf32_ofNat (p : Nat) : (BitVec.ofNat 64 p).extractLsb' 32 32 = BitVec.ofNat 32 (p / 2 ^ 32) := by
  apply BitVec.eq_of_toNat_eq
  rw [field_toNat, BitVec.toNat_ofNat, BitVec.toNat_ofNat]; omega

/-- The lower half of an unsigned 64-bit product. -/
theorem lowerHalf32_ofNat (p : Nat) : (BitVec.ofNat 64 p).extractLsb' 0 32 = BitVec.ofNat 32 p := by
  apply BitVec.eq_of_toNat_eq
  rw [field_toNat, BitVec.toNat_ofNat, BitVec.toNat_ofNat]; omega

/-- The upper half of a signed 128-bit product. -/
theorem upperHalf64_ofInt (p : Int) : (BitVec.ofInt 128 p).extractLsb' 64 64 = BitVec.ofInt 64 (p / 2 ^ 64) := by
  apply BitVec.eq_of_toNat_eq
  rw [field_toNat, BitVec.toNat_ofInt, BitVec.toNat_ofInt]; omega

/-- The lower half of a signed 128-bit product. -/
theorem lowerHalf64_ofInt (p : Int) : (BitVec.ofInt 128 p).extractLsb' 0 64 = BitVec.ofInt 64 p := by
  apply BitVec.eq_of_toNat_eq
  rw [field_toNat, BitVec.toNat_ofInt, BitVec.toNat_ofInt]; omega

/-- The upper half of an unsigned 128-bit product. -/
theorem upperHalf64_ofNat (p : Nat) : (BitVec.ofNat 128 p).extractLsb' 64 64 = BitVec.ofNat 64 (p / 2 ^ 64) := by
  apply BitVec.eq_of_toNat_eq
  rw [field_toNat, BitVec.toNat_ofNat, BitVec.toNat_ofNat]; omega

/-- The lower half of an unsigned 128-bit product. -/
theorem lowerHalf64_ofNat (p : Nat) : (BitVec.ofNat 128 p).extractLsb' 0 64 = BitVec.ofNat 64 p := by
  apply BitVec.eq_of_toNat_eq
  rw [field_toNat, BitVec.toNat_ofNat, BitVec.toNat_ofNat]; omega

/-! ### Quotients -/

/-- A word value is zero when its low word is. -/
theorem IsWord.low_eq_zero {b : DWord} (h : IsWord b) : low32 b = 0 ↔ b = 0 := by
  constructor
  · intro hz
    rw [← BitVec.ofInt_toInt (x := b), ← h.toInt_low, hz]; rfl
  · rintro rfl; rfl

/-- The most negative word. -/
theorem eq_min32_iff {a : Word} : a = 0x80000000 ↔ a.toInt = -2 ^ 31 := by
  constructor
  · rintro rfl; rfl
  · intro h; apply BitVec.eq_of_toInt_eq; rw [h]; rfl

/-- The word -1. -/
theorem eq_minusOne32_iff {a : Word} : a = 0xFFFFFFFF ↔ a.toInt = -1 := by
  constructor
  · rintro rfl; rfl
  · intro h; apply BitVec.eq_of_toInt_eq; rw [h]; rfl

/-- The most negative doubleword. -/
theorem eq_min64_iff {a : DWord} : a = 0x8000000000000000 ↔ a.toInt = -2 ^ 63 := by
  constructor
  · rintro rfl; rfl
  · intro h; apply BitVec.eq_of_toInt_eq; rw [h]; rfl

/-- The doubleword -1. -/
theorem eq_minusOne64_iff {a : DWord} : a = 0xFFFFFFFFFFFFFFFF ↔ a.toInt = -1 := by
  constructor
  · rintro rfl; rfl
  · intro h; apply BitVec.eq_of_toInt_eq; rw [h]; rfl

/-- A word that holds an integer, sign-extended. -/
theorem sext32_ofInt {n : Int} (h : FitsWord n) : sext32 (BitVec.ofInt 32 n) = BitVec.ofInt 64 n := by
  rw [sext32_eq_ofInt, BitVec.toInt_ofInt, Int.bmod_eq_of_le] <;> unfold FitsWord at h <;> omega

/-- Quotient and remainder of words are words, but for the one overflow. -/
theorem division_fits {a b : Int} (ha : FitsWord a) (hb : FitsWord b) (hb0 : b ≠ 0) (hn : ¬(a = -2 ^ 31 ∧ b = -1)) :
    FitsWord (a.tdiv b) ∧ FitsWord (a.tmod b) := by
  unfold FitsWord at *
  have h1 : (a.tmod b).natAbs < b.natAbs := by
    rw [Int.natAbs_tmod]; exact Nat.mod_lt _ (by omega)
  refine ⟨?_, by omega⟩
  have h2 : (a.tdiv b).natAbs = a.natAbs / b.natAbs := Int.natAbs_tdiv a b
  by_cases hb1 : b.natAbs = 1
  · rcases Int.natAbs_eq b with h | h
    · have : b = 1 := by omega
      subst this; rw [Int.tdiv_one]; exact ha
    · have : b = -1 := by omega
      subst this; rw [Int.tdiv_neg, Int.tdiv_one]; omega
  · have : a.natAbs / b.natAbs ≤ a.natAbs / 2 := Nat.div_le_div_left (by omega) (by omega)
    omega

/-! ### The hazard of HI and LO (70_reset_and_hazards.md R350) -/

/-- A guarded write of HI is refused under the policy of R350. -/
theorem guardHi_refused {s : State} (h : s.hiGuard ≠ 0) (hz : s.config.hiLoHazard = .refuse) (k : State → Result) :
    guardHi s k = .refused .hiLoHazard := by
  unfold guardHi; rw [if_neg h, hz]

/-- A guarded write of LO is refused under the policy of R350. -/
theorem guardLo_refused {s : State} (h : s.loGuard ≠ 0) (hz : s.config.hiLoHazard = .refuse) (k : State → Result) :
    guardLo s k = .refused .hiLoHazard := by
  unfold guardLo; rw [if_neg h, hz]

end Sys2Proof.Machine
end

