-- ==== Sys2Proof/Tests/Slice0.lean ====
section
/-! SUPPORT. Tests. The words and results are those of 95_test_vectors.md, named by the rows they come from (W and E: section 3;
V: section 2; Q: section 3.4); none is the model's own answer. The witnesses show that the hypotheses of the statements can be
met. -/

set_option Elab.async false

namespace Sys2Proof.Tests

open Sys2Proof Sys2Proof.Machine

/-! ### Well-formedness: a term each check refuses, and one it accepts beside it -/

theorem test_wf_mode_four_has_no_cop3 :
    (Instr.cop3 0).wf .IV = false ∧ (Instr.lwc3 0 0 0).wf .III = false ∧ (Instr.swc3 0 0 0).wf .IV = false ∧
      (Instr.ldc3 0 0 0).wf .III = false ∧ (Instr.sdc3 0 0 0).wf .IV = false ∧ (Instr.cop3 0).wf .II = true := by decide

theorem test_wf_mode_two_has_the_historic_cells :
    (Instr.cop1x 0).wf .II = false ∧ (Instr.pref 0 0 0).wf .II = false ∧ (Instr.reservedOp111011 0).wf .II = false ∧
      (Instr.ld 1 0 2).wf .II = false ∧ (Instr.sd 1 0 2).wf .II = false ∧ (Instr.ld 1 0 2).wf .III = true := by decide

theorem test_wf_jalr_same_register : (Instr.jalr 5 5).wf .IV = false ∧ (Instr.jalr 31 5).wf .IV = true := by decide

theorem test_wf_linking_branch_tests_link :
    (Instr.bltzal 31 4).wf .IV = false ∧ (Instr.bgezal 31 4).wf .IV = false ∧ (Instr.bltzall 31 4).wf .IV = false ∧
      (Instr.bgezall 31 4).wf .IV = false ∧ (Instr.bgezall 30 4).wf .IV = true ∧ (Instr.bgez 31 4).wf .IV = true := by
  decide

/-! ### Decoding -/

theorem test_decode_jumps_branches :
    decodeTableWord 32 0x0A345678 = some (.j 0x2345678) ∧ decodeTableWord 32 0x0E345678 = some (.jal 0x2345678) ∧
    decodeTableWord 32 0x00200008 = some (.jr 1) ∧ decodeTableWord 32 0x00201809 = some (.jalr 3 1) ∧
    decodeTableWord 32 0x10228765 = some (.beq 1 2 0x8765) ∧
    decodeTableWord 32 0x14228765 = some (.bne 1 2 0x8765) ∧ decodeTableWord 32 0x18208765 = some (.blez 1 0x8765) ∧
    decodeTableWord 32 0x1C208765 = some (.bgtz 1 0x8765) ∧
    decodeTableWord 32 0x50228765 = some (.beql 1 2 0x8765) ∧
    decodeTableWord 32 0x54228765 = some (.bnel 1 2 0x8765) ∧
    decodeTableWord 32 0x58208765 = some (.blezl 1 0x8765) ∧
    decodeTableWord 32 0x5C208765 = some (.bgtzl 1 0x8765) ∧ decodeTableWord 32 0x04208765 = some (.bltz 1 0x8765) ∧
    decodeTableWord 32 0x04218765 = some (.bgez 1 0x8765) ∧ decodeTableWord 32 0x04228765 = some (.bltzl 1 0x8765) ∧
    decodeTableWord 32 0x04238765 = some (.bgezl 1 0x8765) ∧
    decodeTableWord 32 0x04308765 = some (.bltzal 1 0x8765) ∧
    decodeTableWord 32 0x04318765 = some (.bgezal 1 0x8765) ∧
    decodeTableWord 32 0x04328765 = some (.bltzall 1 0x8765) ∧
    decodeTableWord 32 0x04338765 = some (.bgezall 1 0x8765) := by decide +kernel

theorem test_decode_immediate :
    decodeTableWord 32 0x20228765 = some (.addi 2 1 0x8765) ∧
    decodeTableWord 32 0x24228765 = some (.addiu 2 1 0x8765) ∧
    decodeTableWord 32 0x28228765 = some (.slti 2 1 0x8765) ∧
    decodeTableWord 32 0x2C228765 = some (.sltiu 2 1 0x8765) ∧
    decodeTableWord 32 0x30228765 = some (.andi 2 1 0x8765) ∧
    decodeTableWord 32 0x34228765 = some (.ori 2 1 0x8765) ∧
    decodeTableWord 32 0x38228765 = some (.xori 2 1 0x8765) ∧ decodeTableWord 32 0x3C028765 = some (.lui 2 0x8765) ∧
    decodeTableWord 32 0x60228765 = some (.daddi 2 1 0x8765) ∧
    decodeTableWord 32 0x64228765 = some (.daddiu 2 1 0x8765) := by decide +kernel

theorem test_decode_loads :
    decodeTableWord 32 0x80228765 = some (.lb 2 0x8765 1) ∧ decodeTableWord 32 0x84228765 = some (.lh 2 0x8765 1) ∧
    decodeTableWord 32 0x88228765 = some (.lwl 2 0x8765 1) ∧ decodeTableWord 32 0x8C228765 = some (.lw 2 0x8765 1) ∧
    decodeTableWord 32 0x90228765 = some (.lbu 2 0x8765 1) ∧
    decodeTableWord 32 0x94228765 = some (.lhu 2 0x8765 1) ∧
    decodeTableWord 32 0x98228765 = some (.lwr 2 0x8765 1) ∧
    decodeTableWord 32 0x9C228765 = some (.lwu 2 0x8765 1) ∧
    decodeTableWord 32 0x68228765 = some (.ldl 2 0x8765 1) ∧
    decodeTableWord 32 0x6C228765 = some (.ldr 2 0x8765 1) ∧ decodeTableWord 32 0xDC228765 = some (.ld 2 0x8765 1) ∧
    decodeTableWord 32 0xC0228765 = some (.ll 2 0x8765 1) ∧ decodeTableWord 32 0xD0228765 = some (.lld 2 0x8765 1) := by decide +kernel

theorem test_decode_stores :
    decodeTableWord 32 0xA0228765 = some (.sb 2 0x8765 1) ∧ decodeTableWord 32 0xA4228765 = some (.sh 2 0x8765 1) ∧
    decodeTableWord 32 0xA8228765 = some (.swl 2 0x8765 1) ∧ decodeTableWord 32 0xAC228765 = some (.sw 2 0x8765 1) ∧
    decodeTableWord 32 0xB0228765 = some (.sdl 2 0x8765 1) ∧
    decodeTableWord 32 0xB4228765 = some (.sdr 2 0x8765 1) ∧
    decodeTableWord 32 0xB8228765 = some (.swr 2 0x8765 1) ∧ decodeTableWord 32 0xFC228765 = some (.sd 2 0x8765 1) ∧
    decodeTableWord 32 0xE0228765 = some (.sc 2 0x8765 1) ∧ decodeTableWord 32 0xF0228765 = some (.scd 2 0x8765 1) ∧
    decodeTableWord 32 0xCC258765 = some (.pref 5 0x8765 1) ∧ decodeTableWord 32 0x0000000F = some .sync := by decide +kernel

theorem test_decode_shifts :
    decodeTableWord 32 0x00021900 = some (.sll 3 2 4) ∧ decodeTableWord 32 0x00021902 = some (.srl 3 2 4) ∧
    decodeTableWord 32 0x00021903 = some (.sra 3 2 4) ∧ decodeTableWord 32 0x00221804 = some (.sllv 3 2 1) ∧
    decodeTableWord 32 0x00221806 = some (.srlv 3 2 1) ∧ decodeTableWord 32 0x00221807 = some (.srav 3 2 1) ∧
    decodeTableWord 32 0x00221814 = some (.dsllv 3 2 1) ∧ decodeTableWord 32 0x00221816 = some (.dsrlv 3 2 1) ∧
    decodeTableWord 32 0x00221817 = some (.dsrav 3 2 1) ∧ decodeTableWord 32 0x00021938 = some (.dsll 3 2 4) ∧
    decodeTableWord 32 0x0002193A = some (.dsrl 3 2 4) ∧ decodeTableWord 32 0x0002193B = some (.dsra 3 2 4) ∧
    decodeTableWord 32 0x0002193C = some (.dsll32 3 2 4) ∧ decodeTableWord 32 0x0002193E = some (.dsrl32 3 2 4) ∧
    decodeTableWord 32 0x0002193F = some (.dsra32 3 2 4) := by decide +kernel

theorem test_decode_registers :
    decodeTableWord 32 0x0022180A = some (.movz 3 1 2) ∧ decodeTableWord 32 0x0022180B = some (.movn 3 1 2) ∧
    decodeTableWord 32 0x00221820 = some (.add 3 1 2) ∧ decodeTableWord 32 0x00221821 = some (.addu 3 1 2) ∧
    decodeTableWord 32 0x00221822 = some (.sub 3 1 2) ∧ decodeTableWord 32 0x00221823 = some (.subu 3 1 2) ∧
    decodeTableWord 32 0x00221824 = some (.and_ 3 1 2) ∧ decodeTableWord 32 0x00221825 = some (.or_ 3 1 2) ∧
    decodeTableWord 32 0x00221826 = some (.xor_ 3 1 2) ∧ decodeTableWord 32 0x00221827 = some (.nor 3 1 2) ∧
    decodeTableWord 32 0x0022182A = some (.slt 3 1 2) ∧ decodeTableWord 32 0x0022182B = some (.sltu 3 1 2) ∧
    decodeTableWord 32 0x0022182C = some (.dadd 3 1 2) ∧ decodeTableWord 32 0x0022182D = some (.daddu 3 1 2) ∧
    decodeTableWord 32 0x0022182E = some (.dsub 3 1 2) ∧ decodeTableWord 32 0x0022182F = some (.dsubu 3 1 2) := by decide +kernel

theorem test_decode_multiply_divide :
    decodeTableWord 32 0x00001810 = some (.mfhi 3) ∧ decodeTableWord 32 0x00200011 = some (.mthi 1) ∧
    decodeTableWord 32 0x00001812 = some (.mflo 3) ∧ decodeTableWord 32 0x00200013 = some (.mtlo 1) ∧
    decodeTableWord 32 0x00220018 = some (.mult 1 2) ∧ decodeTableWord 32 0x00220019 = some (.multu 1 2) ∧
    decodeTableWord 32 0x0022001A = some (.div 1 2) ∧ decodeTableWord 32 0x0022001B = some (.divu 1 2) ∧
    decodeTableWord 32 0x0022001C = some (.dmult 1 2) ∧ decodeTableWord 32 0x0022001D = some (.dmultu 1 2) ∧
    decodeTableWord 32 0x0022001E = some (.ddiv 1 2) ∧ decodeTableWord 32 0x0022001F = some (.ddivu 1 2) := by decide +kernel

theorem test_decode_traps :
    decodeTableWord 32 0x02AF378C = some (.syscall 0xABCDE) ∧
    decodeTableWord 32 0x02AF378D = some (.break_ 0xABCDE) ∧ decodeTableWord 32 0x0022A970 = some (.tge 1 2 0x2A5) ∧
    decodeTableWord 32 0x0022A971 = some (.tgeu 1 2 0x2A5) ∧ decodeTableWord 32 0x0022A972 = some (.tlt 1 2 0x2A5) ∧
    decodeTableWord 32 0x0022A973 = some (.tltu 1 2 0x2A5) ∧ decodeTableWord 32 0x0022A974 = some (.teq 1 2 0x2A5) ∧
    decodeTableWord 32 0x0022A976 = some (.tne 1 2 0x2A5) ∧ decodeTableWord 32 0x04288765 = some (.tgei 1 0x8765) ∧
    decodeTableWord 32 0x04298765 = some (.tgeiu 1 0x8765) ∧ decodeTableWord 32 0x042A8765 = some (.tlti 1 0x8765) ∧
    decodeTableWord 32 0x042B8765 = some (.tltiu 1 0x8765) ∧ decodeTableWord 32 0x042C8765 = some (.teqi 1 0x8765) ∧
    decodeTableWord 32 0x042E8765 = some (.tnei 1 0x8765) := by decide +kernel

theorem test_decode_non_cpu :
    decodeTableWord 32 0x40000000 = some (.cop0 0) ∧ decodeTableWord 32 0x44000000 = some (.cop1 0) ∧
    decodeTableWord 32 0x48000000 = some (.cop2 0) ∧ decodeTableWord 32 0x4C000000 = some (.cop1x 0) ∧
    decodeTableWord 32 0xBC000000 = some (.rho 0 0 0) ∧ decodeTableWord 32 0xC4000000 = some (.lwc1 0 0 0) ∧
    decodeTableWord 32 0xC8000000 = some (.lwc2 0 0 0) ∧ decodeTableWord 32 0xD4000000 = some (.ldc1 0 0 0) ∧
    decodeTableWord 32 0xD8000000 = some (.ldc2 0 0 0) ∧ decodeTableWord 32 0xE4000000 = some (.swc1 0 0 0) ∧
    decodeTableWord 32 0xE8000000 = some (.swc2 0 0 0) ∧ decodeTableWord 32 0xF4000000 = some (.sdc1 0 0 0) ∧
    decodeTableWord 32 0xF8000000 = some (.sdc2 0 0 0) ∧ decodeTableWord 32 0x00000001 = some (.movci 0) := by decide +kernel

theorem test_decode_reserved_opcodes :
    decodeTableWord 32 0x73FFFFFF = some (.reservedOp011100 0x3FFFFFF) ∧
    decodeTableWord 32 0x77FFFFFF = some (.reservedOp011101 0x3FFFFFF) ∧
    decodeTableWord 32 0x7BFFFFFF = some (.reservedOp011110 0x3FFFFFF) ∧
    decodeTableWord 32 0x7FFFFFFF = some (.reservedOp011111 0x3FFFFFF) ∧
    decodeTableWord 32 0xEFFFFFFF = some (.reservedOp111011 0x3FFFFFF) := by decide +kernel

theorem test_decode_reserved_special :
    decodeTableWord 32 0x03FFFFC5 = some (.reservedSpecial000101 0xFFFFF) ∧
    decodeTableWord 32 0x03FFFFCE = some (.reservedSpecial001110 0xFFFFF) ∧
    decodeTableWord 32 0x03FFFFD5 = some (.reservedSpecial010101 0xFFFFF) ∧
    decodeTableWord 32 0x03FFFFE8 = some (.reservedSpecial101000 0xFFFFF) ∧
    decodeTableWord 32 0x03FFFFE9 = some (.reservedSpecial101001 0xFFFFF) ∧
    decodeTableWord 32 0x03FFFFF5 = some (.reservedSpecial110101 0xFFFFF) ∧
    decodeTableWord 32 0x03FFFFF7 = some (.reservedSpecial110111 0xFFFFF) ∧
    decodeTableWord 32 0x03FFFFF9 = some (.reservedSpecial111001 0xFFFFF) ∧
    decodeTableWord 32 0x03FFFFFD = some (.reservedSpecial111101 0xFFFFF) := by decide +kernel

theorem test_decode_reserved_regimm :
    decodeTableWord 32 0x07E4FFFF = some (.reservedRegimm00100 31 0xFFFF) ∧
    decodeTableWord 32 0x07E5FFFF = some (.reservedRegimm00101 31 0xFFFF) ∧
    decodeTableWord 32 0x07E6FFFF = some (.reservedRegimm00110 31 0xFFFF) ∧
    decodeTableWord 32 0x07E7FFFF = some (.reservedRegimm00111 31 0xFFFF) ∧
    decodeTableWord 32 0x07EDFFFF = some (.reservedRegimm01101 31 0xFFFF) ∧
    decodeTableWord 32 0x07EFFFFF = some (.reservedRegimm01111 31 0xFFFF) ∧
    decodeTableWord 32 0x07F4FFFF = some (.reservedRegimm10100 31 0xFFFF) ∧
    decodeTableWord 32 0x07F5FFFF = some (.reservedRegimm10101 31 0xFFFF) ∧
    decodeTableWord 32 0x07F6FFFF = some (.reservedRegimm10110 31 0xFFFF) ∧
    decodeTableWord 32 0x07F7FFFF = some (.reservedRegimm10111 31 0xFFFF) ∧
    decodeTableWord 32 0x07F8FFFF = some (.reservedRegimm11000 31 0xFFFF) ∧
    decodeTableWord 32 0x07F9FFFF = some (.reservedRegimm11001 31 0xFFFF) ∧
    decodeTableWord 32 0x07FAFFFF = some (.reservedRegimm11010 31 0xFFFF) ∧
    decodeTableWord 32 0x07FBFFFF = some (.reservedRegimm11011 31 0xFFFF) ∧
    decodeTableWord 32 0x07FCFFFF = some (.reservedRegimm11100 31 0xFFFF) ∧
    decodeTableWord 32 0x07FDFFFF = some (.reservedRegimm11101 31 0xFFFF) ∧
    decodeTableWord 32 0x07FEFFFF = some (.reservedRegimm11110 31 0xFFFF) ∧
    decodeTableWord 32 0x07FFFFFF = some (.reservedRegimm11111 31 0xFFFF) := by decide +kernel

/-- The parameters with another mode. -/
def cfg (m : ISAMode) : Config := { Config.default with isaMode := m }

/-- Rows Q7, Q9, Q11, Q12, Q13. -/
theorem test_decode_historic :
    (decode (cfg .II) 0x4C000000).toOption = some (.cop3 0) ∧ (decode (cfg .II) 0xCC250000).toOption = some (.lwc3 5 0 1) ∧
      (decode (cfg .II) 0xDC220000).toOption = some (.ldc3 2 0 1) ∧ (decode (cfg .II) 0xFC220000).toOption = some (.sdc3 2 0 1) ∧
      (decode (cfg .II) 0xEC220000).toOption = some (.swc3 2 0 1) := by decide +kernel

/-- Rows Z1, Z6, Z16, Z18, Z32: a must-be-zero bit is set. -/
theorem test_decode_must_be_zero :
    decodeTableWord 32 0x18218765 = none ∧ decodeTableWord 32 0x02021900 = none ∧ decodeTableWord 32 0x0000004F = none ∧
      decodeTableWord 32 0x00300011 = none ∧ decodeTableWord 32 0x00221C20 = none := by decide +kernel

/-! ### One step from a small state -/

/-- The reset state with registers set. -/
def start (l : List (RegIdx × DWord)) : State := l.foldl (fun s p => s.setReg p.1 p.2) State.reset

/-- The image M: bytes 11 22 33 44 55 66 77 88 from 0x2000 on. -/
def imaged (s : State) : State :=
  s.place [(0x2000, 0x11), (0x2001, 0x22), (0x2002, 0x33), (0x2003, 0x44), (0x2004, 0x55), (0x2005, 0x66), (0x2006, 0x77),
    (0x2007, 0x88)]

/-- The eight bytes from 0x2000 on. -/
def image (s : State) : List Byte := (List.range 8).map fun i => s.byteAt (0x2000 + BitVec.ofNat 64 i)

/-- The same state with `BigEndianCPU` = 0. -/
def little (s : State) : State := { s with config := { s.config with bigEndian := false } }

/-- The step on a word completes in a state with a property. -/
def runs (s : State) (w : Nat) (p : State → Bool) : Bool :=
  match step (s.withFetchWord 32 w) with
  | .next t => decide (t.exc = none) && p t
  | _ => false

/-- The step on a word stops at an exception, with no other change. -/
def stops (s : State) (w : Nat) (e : Exception) : Bool :=
  match step (s.withFetchWord 32 w) with
  | .next t => decide (t = { s.withFetchWord 32 w with exc := some (recordIn s e) })
  | _ => false

/-- The step on a word is refused. -/
def refuses (s : State) (w : Nat) (x : Refusal) : Bool :=
  match step (s.withFetchWord 32 w) with
  | .refused y => decide (y = x)
  | _ => false

theorem test_j_V30 :
    runs { State.reset with pc := 0xFFFFFFC, npc := 0x10000000 } 0x08000400 (fun t => t.pc = 0x10000000 ∧ t.npc = 0x10001000) = true := by
  decide +kernel
theorem test_j_V35 :
    refuses { State.reset with inDelaySlot := true } 0x08000800 .branchInDelaySlot = true := by
  decide +kernel
theorem test_jal_V31 :
    runs { State.reset with pc := 0xFFFFFFFF80001000, npc := 0xFFFFFFFF80001004 } 0x0FFFFFFF (fun t => t.pc = 0xFFFFFFFF80001004 ∧ t.npc = 0xFFFFFFFF8FFFFFFC ∧ t.reg 31 = 0xFFFFFFFF80001008) = true := by
  decide +kernel
theorem test_beq_V10 :
    runs (start [(1, 0), (2, 0)]) 0x1022FFFF (fun t => t.pc = 0x1004 ∧ t.npc = 0x1000) = true := by
  decide +kernel
theorem test_beq_V34 :
    refuses { start [(1, 7), (2, 7)] with inDelaySlot := true } 0x10220004 .branchInDelaySlot = true := by
  decide +kernel
theorem test_bne_V11 :
    runs (start [(1, 0x100000000), (2, 0)]) 0x1422FFFD (fun t => t.pc = 0x1004 ∧ t.npc = 0xFF8) = true := by
  decide +kernel
theorem test_blez_V12 :
    runs (start [(1, 0)]) 0x18200002 (fun t => t.pc = 0x1004 ∧ t.npc = 0x100C) = true := by
  decide +kernel
theorem test_bgtz_V13 :
    runs (start [(1, 0)]) 0x1C200002 (fun t => t.pc = 0x1004 ∧ t.npc = 0x1008) = true := by
  decide +kernel
theorem test_addi_V40 : stops (start [(1, 0x7FFFFFFF)]) 0x20200001 .integerOverflow = true := by decide +kernel
theorem test_addi_V41 :
    stops { start [(1, 0x7FFFFFFF)] with inDelaySlot := true } 0x20220001 .integerOverflow = true := by
  decide +kernel
theorem test_addiu_V42 :
    runs (start [(1, 0x7FFFFFFF)]) 0x24220001 (fun t => t.reg 2 = 0xFFFFFFFF80000000) = true := by
  decide +kernel
theorem test_addiu_V44 :
    runs (start [(1, 0x100000000)]) 0x24220001 (fun t => t.pc = 0x1004 ∧ t.draws = 1) = true := by
  decide +kernel
theorem test_slti_V46 :
    runs (start [(1, 0xFFFFFFFFFFFFFFFE)]) 0x2822FFFF (fun t => t.reg 2 = 1) = true := by
  decide +kernel
theorem test_sltiu_V48 :
    runs (start [(1, 0xFFFFFFFFFFFFFFFE)]) 0x2C22FFFF (fun t => t.reg 2 = 1) = true := by
  decide +kernel
theorem test_sltiu_V50 :
    runs (start [(1, 0x7FFFFFFFFFFFFFFF)]) 0x2C228000 (fun t => t.reg 2 = 1) = true := by
  decide +kernel
theorem test_andi_V51 :
    runs (start [(1, 0x123456789ABCDEF0)]) 0x3022FFFF (fun t => t.reg 2 = 0xDEF0) = true := by
  decide +kernel
theorem test_ori_V52 : runs (start [(1, 0)]) 0x34228000 (fun t => t.reg 2 = 0x8000) = true := by decide +kernel
theorem test_xori_V53 :
    runs (start [(1, 0xFFFFFFFFFFFFFFFF)]) 0x3822FFFF (fun t => t.reg 2 = 0xFFFFFFFFFFFF0000) = true := by
  decide +kernel
theorem test_lui_V54 : runs State.reset 0x3C028000 (fun t => t.reg 2 = 0xFFFFFFFF80000000) = true := by decide +kernel
theorem test_beql_V17 :
    runs (start [(1, 1), (2, 2)]) 0x50220004 (fun t => t.pc = 0x1008 ∧ t.npc = 0x100C) = true := by
  decide +kernel
theorem test_bnel_V19 :
    runs (start [(1, 2), (2, 2)]) 0x54220004 (fun t => t.pc = 0x1008 ∧ t.npc = 0x100C) = true := by
  decide +kernel
theorem test_blezl_V20 :
    runs (start [(1, 1)]) 0x58200004 (fun t => t.pc = 0x1008 ∧ t.npc = 0x100C) = true := by
  decide +kernel
theorem test_bgtzl_V21 :
    runs (start [(1, 1)]) 0x5C200004 (fun t => t.pc = 0x1004 ∧ t.npc = 0x1014) = true := by
  decide +kernel
theorem test_daddi_V56 : stops (start [(1, 0x7FFFFFFFFFFFFFFF)]) 0x60220001 .integerOverflow = true := by decide +kernel
theorem test_daddiu_V58 :
    runs (start [(1, 0x7FFFFFFFFFFFFFFF)]) 0x64220001 (fun t => t.reg 2 = 0x8000000000000000) = true := by
  decide +kernel
theorem test_ldl_V71 :
    runs (imaged (start [(1, 0x2000), (2, 0xA7A6A5A4A3A2A1A0)])) 0x68220003 (fun t => t.reg 2 = 0x4455667788A2A1A0) = true := by
  decide +kernel
theorem test_ldl_V92 :
    runs (little (imaged (start [(1, 0x2000), (2, 0xA7A6A5A4A3A2A1A0)]))) 0x68220003 (fun t => t.reg 2 = 0x44332211A3A2A1A0) = true := by
  decide +kernel
theorem test_ldr_V72 :
    runs (imaged (start [(1, 0x2000), (2, 0xA7A6A5A4A3A2A1A0)])) 0x6C220003 (fun t => t.reg 2 = 0xA7A6A5A411223344) = true := by
  decide +kernel
theorem test_ldr_V93 :
    runs (little (imaged (start [(1, 0x2000), (2, 0xA7A6A5A4A3A2A1A0)]))) 0x6C220003 (fun t => t.reg 2 = 0xA7A6A58877665544) = true := by
  decide +kernel
theorem test_lb_V60 :
    runs (imaged (start [(1, 0x2000)])) 0x80220007 (fun t => t.reg 2 = 0xFFFFFFFFFFFFFF88) = true := by
  decide +kernel
theorem test_lh_V83 :
    runs (little (imaged (start [(1, 0x2000)]))) 0x84220006 (fun t => t.reg 2 = 0xFFFFFFFFFFFF8877) = true := by
  decide +kernel
theorem test_lh_V102 : stops (start [(1, 0x2000)]) 0x84220001 (.addressErrorLoad 0x2001) = true := by decide +kernel
theorem test_lwl_V67 :
    runs (imaged (start [(1, 0x2000), (2, 0xA7A6A5A4A3A2A1A0)])) 0x88220001 (fun t => t.reg 2 = 0x223344A0) = true := by
  decide +kernel
theorem test_lwl_V88 :
    runs (little (imaged (start [(1, 0x2000), (2, 0xA7A6A5A4A3A2A1A0)]))) 0x88220001 (fun t => t.reg 2 = 0x2211A1A0) = true := by
  decide +kernel
theorem test_lw_V85 :
    runs (little (imaged (start [(1, 0x2000)]))) 0x8C220004 (fun t => t.reg 2 = 0xFFFFFFFF88776655) = true := by
  decide +kernel
theorem test_lw_V103 : stops (start [(1, 0x2000)]) 0x8C220002 (.addressErrorLoad 0x2002) = true := by decide +kernel
theorem test_lbu_V61 :
    runs (imaged (start [(1, 0x2000)])) 0x90220007 (fun t => t.reg 2 = 0x88) = true := by
  decide +kernel
theorem test_lhu_V63 :
    runs (imaged (start [(1, 0x2000)])) 0x94220006 (fun t => t.reg 2 = 0x7788) = true := by
  decide +kernel
theorem test_lwr_V70 :
    runs (imaged { start [(1, 0x2000), (2, 0xA7A6A5A4A3A2A1A0)] with config := { Config.default with lwrUpperPolicy := .keep } }) 0x98220005 (fun t => t.reg 2 = 0xA7A6A5A4A3A25566) = true := by
  decide +kernel
theorem test_lwr_V89 :
    runs (little (imaged (start [(1, 0x2000), (2, 0xA7A6A5A4A3A2A1A0)]))) 0x98220004 (fun t => t.reg 2 = 0xFFFFFFFF88776655) = true := by
  decide +kernel
theorem test_lwu_V65 :
    runs (imaged (start [(1, 0x2000)])) 0x9C220004 (fun t => t.reg 2 = 0x55667788) = true := by
  decide +kernel
theorem test_sb_V73 :
    runs (imaged (start [(1, 0x2000), (2, 0xA7A6A5A4A3A2A1A0)])) 0xA0220001 (fun t => image t = [0x11, 0xA0, 0x33, 0x44, 0x55, 0x66, 0x77, 0x88]) = true := by
  decide +kernel
theorem test_sh_V95 :
    runs (little (imaged (start [(1, 0x2000), (2, 0xA7A6A5A4A3A2A1A0)]))) 0xA4220002 (fun t => image t = [0x11, 0x22, 0xA0, 0xA1, 0x55, 0x66, 0x77, 0x88]) = true := by
  decide +kernel
theorem test_sh_V105 : stops (start [(1, 0x2000)]) 0xA4220001 (.addressErrorStore 0x2001) = true := by decide +kernel
theorem test_swl_V77 :
    runs (imaged (start [(1, 0x2000), (2, 0xA7A6A5A4A3A2A1A0)])) 0xA8220001 (fun t => image t = [0x11, 0xA3, 0xA2, 0xA1, 0x55, 0x66, 0x77, 0x88]) = true := by
  decide +kernel
theorem test_swl_V98 :
    runs (little (imaged (start [(1, 0x2000), (2, 0xA7A6A5A4A3A2A1A0)]))) 0xA8220001 (fun t => image t = [0xA2, 0xA3, 0x33, 0x44, 0x55, 0x66, 0x77, 0x88]) = true := by
  decide +kernel
theorem test_sw_V75 :
    runs (imaged (start [(1, 0x2000), (2, 0xA7A6A5A4A3A2A1A0)])) 0xAC220004 (fun t => image t = [0x11, 0x22, 0x33, 0x44, 0xA3, 0xA2, 0xA1, 0xA0]) = true := by
  decide +kernel
theorem test_sw_V106 : stops (start [(1, 0x2000)]) 0xAC220006 (.addressErrorStore 0x2006) = true := by decide +kernel
theorem test_sdl_V79 :
    runs (imaged (start [(1, 0x2000), (2, 0xA7A6A5A4A3A2A1A0)])) 0xB0220003 (fun t => image t = [0x11, 0x22, 0x33, 0xA7, 0xA6, 0xA5, 0xA4, 0xA3]) = true := by
  decide +kernel
theorem test_sdl_V100 :
    runs (little (imaged (start [(1, 0x2000), (2, 0xA7A6A5A4A3A2A1A0)]))) 0xB0220003 (fun t => image t = [0xA4, 0xA5, 0xA6, 0xA7, 0x55, 0x66, 0x77, 0x88]) = true := by
  decide +kernel
theorem test_sdr_V80 :
    runs (imaged (start [(1, 0x2000), (2, 0xA7A6A5A4A3A2A1A0)])) 0xB4220003 (fun t => image t = [0xA3, 0xA2, 0xA1, 0xA0, 0x55, 0x66, 0x77, 0x88]) = true := by
  decide +kernel
theorem test_sdr_V101 :
    runs (little (imaged (start [(1, 0x2000), (2, 0xA7A6A5A4A3A2A1A0)]))) 0xB4220003 (fun t => image t = [0x11, 0x22, 0x33, 0xA0, 0xA1, 0xA2, 0xA3, 0xA4]) = true := by
  decide +kernel
theorem test_swr_V78 :
    runs (imaged (start [(1, 0x2000), (2, 0xA7A6A5A4A3A2A1A0)])) 0xB8220001 (fun t => image t = [0xA1, 0xA0, 0x33, 0x44, 0x55, 0x66, 0x77, 0x88]) = true := by
  decide +kernel
theorem test_swr_V99 :
    runs (little (imaged (start [(1, 0x2000), (2, 0xA7A6A5A4A3A2A1A0)]))) 0xB8220001 (fun t => image t = [0x11, 0xA0, 0xA1, 0xA2, 0x55, 0x66, 0x77, 0x88]) = true := by
  decide +kernel
theorem test_rho_V228 : stops State.reset 0xBC000000 .reservedInstruction = true := by decide +kernel
theorem test_ll_V110 :
    runs (imaged (start [(1, 0x2000)])) 0xC0220004 (fun t => t.reg 2 = 0x55667788 ∧ t.llBit = true) = true := by
  decide +kernel
theorem test_pref_V118 :
    runs (start [(1, 0x2000)]) 0xCC200003 (fun t => t.pc = 0x1004 ∧ t.npc = 0x1008) = true := by
  decide +kernel
theorem test_lld_V111 :
    runs (imaged (start [(1, 0x2000)])) 0xD0220000 (fun t => t.reg 2 = 0x1122334455667788 ∧ t.llBit = true) = true := by
  decide +kernel
theorem test_ld_V87 :
    runs (little (imaged (start [(1, 0x2000)]))) 0xDC220000 (fun t => t.reg 2 = 0x8877665544332211) = true := by
  decide +kernel
theorem test_ld_V104 : stops (start [(1, 0x2000)]) 0xDC220004 (.addressErrorLoad 0x2004) = true := by decide +kernel
theorem test_sc_V112 :
    runs (imaged { start [(1, 0x2000), (2, 0xA7A6A5A4A3A2A1A0)] with llAddr := 0x2004, llWidth := some .word, llIntact := true, llBlock := 2, llBit := true, config := { Config.default with scPolicy := .succeedsIfIntact } }) 0xE0220004 (fun t => t.reg 2 = 1 ∧ image t = [0x11, 0x22, 0x33, 0x44, 0xA3, 0xA2, 0xA1, 0xA0]) = true := by
  decide +kernel
theorem test_sc_V113 :
    runs (imaged { start [(1, 0x2000), (2, 0xA7A6A5A4A3A2A1A0)] with llAddr := 0x2004, llWidth := some .word, llIntact := true, llBlock := 2, config := { Config.default with scPolicy := .succeedsIfIntact } }) 0xE0220004 (fun t => t.reg 2 = 0 ∧ image t = [0x11, 0x22, 0x33, 0x44, 0x55, 0x66, 0x77, 0x88]) = true := by
  decide +kernel
theorem test_scd_V114 :
    runs (imaged { start [(1, 0x2000), (2, 0xA7A6A5A4A3A2A1A0)] with llAddr := 0x2000, llWidth := some .doubleword, llIntact := true, llBlock := 2, llBit := true, config := { Config.default with scPolicy := .succeedsIfIntact } }) 0xF0220000 (fun t => t.reg 2 = 1 ∧ image t = [0xA7, 0xA6, 0xA5, 0xA4, 0xA3, 0xA2, 0xA1, 0xA0]) = true := by
  decide +kernel
theorem test_scd_V117 :
    stops { start [(1, 0x2000)] with llAddr := 0x2004, llWidth := some .doubleword, llIntact := true, llBlock := 2, llBit := true, config := { Config.default with scPolicy := .succeedsIfIntact } } 0xF0220004 (.addressErrorStore 0x2004) = true := by
  decide +kernel
theorem test_sd_V97 :
    runs (little (imaged (start [(1, 0x2000), (2, 0xA7A6A5A4A3A2A1A0)]))) 0xFC220000 (fun t => image t = [0xA0, 0xA1, 0xA2, 0xA3, 0xA4, 0xA5, 0xA6, 0xA7]) = true := by
  decide +kernel
theorem test_sd_V107 : stops (start [(1, 0x2000)]) 0xFC22FFFC (.addressErrorStore 0x1FFC) = true := by decide +kernel
theorem test_sll_V121 :
    runs (start [(2, 0x8000001)]) 0x00021900 (fun t => t.reg 3 = 0xFFFFFFFF80000010) = true := by
  decide +kernel
theorem test_sll_V122 :
    runs (start [(2, 0x123456789ABCDEF0)]) 0x00021800 (fun t => t.reg 3 = 0xFFFFFFFF9ABCDEF0) = true := by
  decide +kernel
theorem test_srl_V125 :
    runs (start [(2, 0xFFFFFFFF80000000)]) 0x00021802 (fun t => t.reg 3 = 0xFFFFFFFF80000000) = true := by
  decide +kernel
theorem test_srl_V126 :
    runs (start [(2, 0x80000000)]) 0x00021902 (fun t => t.pc = 0x1004 ∧ t.draws = 1) = true := by
  decide +kernel
theorem test_sra_V127 :
    runs (start [(2, 0xFFFFFFFF80000000)]) 0x00021903 (fun t => t.reg 3 = 0xFFFFFFFFF8000000) = true := by
  decide +kernel
theorem test_sra_V128 : runs (start [(2, 0x7FFFFFFF)]) 0x00021FC3 (fun t => t.reg 3 = 0) = true := by decide +kernel
theorem test_sllv_V129 : runs (start [(2, 1), (1, 0x21)]) 0x00221804 (fun t => t.reg 3 = 2) = true := by decide +kernel
theorem test_srlv_V130 :
    runs (start [(2, 0xFFFFFFFFFFFFFFFF), (1, 0x1C)]) 0x00221806 (fun t => t.reg 3 = 0xF) = true := by
  decide +kernel
theorem test_srav_V131 :
    runs (start [(2, 0xFFFFFFFF80000000), (1, 0xFFFFFFFFFFFFFFE8)]) 0x00221807 (fun t => t.reg 3 = 0xFFFFFFFFFF800000) = true := by
  decide +kernel
theorem test_jr_V4 :
    runs (start [(5, 0x3002)]) 0x00A00008 (fun t => t.pc = 0x1004 ∧ t.npc = 0x3002) = true := by
  decide +kernel
theorem test_jr_V36 :
    refuses { start [(5, 0x3000)] with inDelaySlot := true } 0x00A00008 .branchInDelaySlot = true := by
  decide +kernel
theorem test_jalr_V6 :
    runs (start [(5, 0x3000)]) 0x00A01009 (fun t => t.pc = 0x1004 ∧ t.npc = 0x3000 ∧ t.reg 2 = 0x1008) = true := by
  decide +kernel
theorem test_jalr_V7 : refuses (start [(5, 0x3000)]) 0x00A02809 .jalrSameRegister = true := by decide +kernel
theorem test_movz_V166 :
    runs (start [(1, 0x55), (2, 0), (3, 0x99)]) 0x0022180A (fun t => t.reg 3 = 0x55) = true := by
  decide +kernel
theorem test_movz_V167 :
    runs (start [(1, 0x55), (2, 0x100000000), (3, 0x99)]) 0x0022180A (fun t => t.reg 3 = 0x99) = true := by
  decide +kernel
theorem test_movn_V168 :
    runs (start [(1, 0x55), (2, 0x100000000), (3, 0x99)]) 0x0022180B (fun t => t.reg 3 = 0x55) = true := by
  decide +kernel
theorem test_movn_V169 :
    runs (start [(1, 0x55), (2, 0), (3, 0x99)]) 0x0022180B (fun t => t.reg 3 = 0x99) = true := by
  decide +kernel
theorem test_syscall_V208 : stops State.reset 0x0000000C (.systemCall 0x0) = true := by decide +kernel
theorem test_break_V210 : stops State.reset 0x000001CD (.breakpoint 0x7) = true := by decide +kernel
theorem test_sync_V119 :
    runs State.reset 0x0000000F (fun t => t.pc = 0x1004 ∧ t.npc = 0x1008) = true := by
  decide +kernel
theorem test_mfhi_V190 :
    runs { State.reset with hi := 0x1234 } 0x00001810 (fun t => t.reg 3 = 0x1234) = true := by
  decide +kernel
theorem test_mfhi_V194 :
    runs { State.reset with hi := 0x1234 } 0x00000010 (fun t => t.reg 0 = 0) = true := by
  decide +kernel
theorem test_mthi_V192 :
    runs (start [(1, 0xABCDEF0123456789)]) 0x00200011 (fun t => t.hi = 0xABCDEF0123456789) = true := by
  decide +kernel
theorem test_mflo_V191 :
    runs { State.reset with lo := 0xFFFFFFFF00000000 } 0x00001812 (fun t => t.reg 3 = 0xFFFFFFFF00000000) = true := by
  decide +kernel
theorem test_mtlo_V193 :
    runs (start [(1, 0xABCDEF0123456789)]) 0x00200013 (fun t => t.lo = 0xABCDEF0123456789) = true := by
  decide +kernel
theorem test_dsllv_V140 :
    runs (start [(2, 1), (1, 0x7F)]) 0x00221814 (fun t => t.reg 3 = 0x8000000000000000) = true := by
  decide +kernel
theorem test_dsrlv_V141 :
    runs (start [(2, 0xFFFFFFFFFFFFFFFF), (1, 0x3C)]) 0x00221816 (fun t => t.reg 3 = 0xF) = true := by
  decide +kernel
theorem test_dsrav_V142 :
    runs (start [(2, 0x8000000000000000), (1, 0x40)]) 0x00221817 (fun t => t.reg 3 = 0x8000000000000000) = true := by
  decide +kernel
theorem test_mult_V172 :
    runs (start [(1, 0xFFFFFFFF80000000), (2, 0xFFFFFFFF80000000)]) 0x00220018 (fun t => t.hi = 0x40000000 ∧ t.lo = 0) = true := by
  decide +kernel
theorem test_mult_V173 :
    runs (start [(1, 0x10000), (2, 0x8000)]) 0x00220018 (fun t => t.hi = 0 ∧ t.lo = 0xFFFFFFFF80000000) = true := by
  decide +kernel
theorem test_multu_V174 :
    runs (start [(1, 0xFFFFFFFFFFFFFFFF), (2, 0xFFFFFFFFFFFFFFFF)]) 0x00220019 (fun t => t.hi = 0xFFFFFFFFFFFFFFFE ∧ t.lo = 1) = true := by
  decide +kernel
theorem test_div_V175 :
    runs (start [(1, 0xFFFFFFFFFFFFFFF9), (2, 2)]) 0x0022001A (fun t => t.hi = 0xFFFFFFFFFFFFFFFF ∧ t.lo = 0xFFFFFFFFFFFFFFFD) = true := by
  decide +kernel
theorem test_div_V178 :
    runs (start [(1, 0xFFFFFFFF80000000), (2, 0xFFFFFFFFFFFFFFFF)]) 0x0022001A (fun t => t.pc = 0x1004 ∧ t.draws = 2) = true := by
  decide +kernel
theorem test_divu_V181 :
    runs (start [(1, 0xFFFFFFFFFFFFFFFF), (2, 2)]) 0x0022001B (fun t => t.hi = 1 ∧ t.lo = 0x7FFFFFFF) = true := by
  decide +kernel
theorem test_dmult_V183 :
    runs (start [(1, 0x8000000000000000), (2, 2)]) 0x0022001C (fun t => t.hi = 0xFFFFFFFFFFFFFFFF ∧ t.lo = 0) = true := by
  decide +kernel
theorem test_dmultu_V184 :
    runs (start [(1, 0xFFFFFFFFFFFFFFFF), (2, 0xFFFFFFFFFFFFFFFF)]) 0x0022001D (fun t => t.hi = 0xFFFFFFFFFFFFFFFE ∧ t.lo = 1) = true := by
  decide +kernel
theorem test_ddiv_V185 :
    runs (start [(1, 0xFFFFFFFFFFFFFFF9), (2, 2)]) 0x0022001E (fun t => t.hi = 0xFFFFFFFFFFFFFFFF ∧ t.lo = 0xFFFFFFFFFFFFFFFD) = true := by
  decide +kernel
theorem test_ddiv_V188 :
    runs (start [(1, 0x8000000000000000), (2, 0xFFFFFFFFFFFFFFFF)]) 0x0022001E (fun t => t.pc = 0x1004 ∧ t.draws = 2) = true := by
  decide +kernel
theorem test_ddivu_V186 :
    runs (start [(1, 0xFFFFFFFFFFFFFFFF), (2, 0x10)]) 0x0022001F (fun t => t.hi = 0xF ∧ t.lo = 0xFFFFFFFFFFFFFFF) = true := by
  decide +kernel
theorem test_ddivu_V189 :
    runs (start [(1, 5), (2, 0)]) 0x0022001F (fun t => t.pc = 0x1004 ∧ t.draws = 2) = true := by
  decide +kernel
theorem test_add_V143 : stops (start [(1, 0x7FFFFFFF), (2, 1)]) 0x00221820 .integerOverflow = true := by decide +kernel
theorem test_add_V145 :
    runs (start [(1, 0x7FFFFFFF), (2, 0xFFFFFFFFFFFFFFFF)]) 0x00221820 (fun t => t.reg 3 = 0x7FFFFFFE) = true := by
  decide +kernel
theorem test_addu_V146 :
    runs (start [(1, 0x7FFFFFFF), (2, 1)]) 0x00221821 (fun t => t.reg 3 = 0xFFFFFFFF80000000) = true := by
  decide +kernel
theorem test_addu_V148 :
    runs (start [(1, 0xFFFFFFFF), (2, 1)]) 0x00221821 (fun t => t.pc = 0x1004 ∧ t.draws = 1) = true := by
  decide +kernel
theorem test_sub_V150 :
    stops (start [(1, 0), (2, 0xFFFFFFFF80000000)]) 0x00221822 .integerOverflow = true := by
  decide +kernel
theorem test_sub_V151 :
    runs (start [(1, 5), (2, 7)]) 0x00221822 (fun t => t.reg 3 = 0xFFFFFFFFFFFFFFFE) = true := by
  decide +kernel
theorem test_subu_V152 :
    runs (start [(1, 0xFFFFFFFF80000000), (2, 1)]) 0x00221823 (fun t => t.reg 3 = 0x7FFFFFFF) = true := by
  decide +kernel
theorem test_and_V158 :
    runs (start [(1, 0xFF00FF00FF00FF00), (2, 0xFF00FF00FF00FF0)]) 0x00221824 (fun t => t.reg 3 = 0xF000F000F000F00) = true := by
  decide +kernel
theorem test_or_V159 :
    runs (start [(1, 0xFF00FF00FF00FF00), (2, 0xFF00FF00FF00FF0)]) 0x00221825 (fun t => t.reg 3 = 0xFFF0FFF0FFF0FFF0) = true := by
  decide +kernel
theorem test_xor_V160 :
    runs (start [(1, 0xFF00FF00FF00FF00), (2, 0xFF00FF00FF00FF0)]) 0x00221826 (fun t => t.reg 3 = 0xF0F0F0F0F0F0F0F0) = true := by
  decide +kernel
theorem test_nor_V161 :
    runs (start [(1, 0xFF00FF00FF00FF00), (2, 0xFF00FF00FF00FF0)]) 0x00221827 (fun t => t.reg 3 = 0xF000F000F000F) = true := by
  decide +kernel
theorem test_slt_V163 :
    runs (start [(1, 0xFFFFFFFFFFFFFFFF), (2, 0)]) 0x0022182A (fun t => t.reg 3 = 1) = true := by
  decide +kernel
theorem test_slt_V165 :
    runs (start [(1, 0x8000000000000000), (2, 0x7FFFFFFFFFFFFFFF)]) 0x0022182A (fun t => t.reg 3 = 1) = true := by
  decide +kernel
theorem test_sltu_V164 :
    runs (start [(1, 0xFFFFFFFFFFFFFFFF), (2, 0)]) 0x0022182B (fun t => t.reg 3 = 0) = true := by
  decide +kernel
theorem test_dadd_V153 :
    stops (start [(1, 0x7FFFFFFFFFFFFFFF), (2, 1)]) 0x0022182C .integerOverflow = true := by
  decide +kernel
theorem test_daddu_V155 :
    runs (start [(1, 0x7FFFFFFFFFFFFFFF), (2, 1)]) 0x0022182D (fun t => t.reg 3 = 0x8000000000000000) = true := by
  decide +kernel
theorem test_dsub_V156 :
    stops (start [(1, 0x8000000000000000), (2, 1)]) 0x0022182E .integerOverflow = true := by
  decide +kernel
theorem test_dsubu_V157 :
    runs (start [(1, 0), (2, 1)]) 0x0022182F (fun t => t.reg 3 = 0xFFFFFFFFFFFFFFFF) = true := by
  decide +kernel
theorem test_tge_V195 : stops (start [(1, 5), (2, 5)]) 0x00220030 (.trap 0) = true := by decide +kernel
theorem test_tge_V196 :
    runs (start [(1, 0xFFFFFFFFFFFFFFFF), (2, 0)]) 0x00220030 (fun t => t.pc = 0x1004 ∧ t.npc = 0x1008) = true := by
  decide +kernel
theorem test_tgeu_V197 :
    stops (start [(1, 0xFFFFFFFFFFFFFFFF), (2, 0)]) 0x00220031 (.trap 0) = true := by
  decide +kernel
theorem test_tlt_V198 : stops (start [(1, 0xFFFFFFFFFFFFFFFF), (2, 0)]) 0x00220032 (.trap 0) = true := by decide +kernel
theorem test_tltu_V199 :
    runs (start [(1, 0xFFFFFFFFFFFFFFFF), (2, 0)]) 0x00220033 (fun t => t.pc = 0x1004 ∧ t.npc = 0x1008) = true := by
  decide +kernel
theorem test_teq_V200 : stops (start [(1, 0), (2, 0)]) 0x002201F4 (.trap 7) = true := by decide +kernel
theorem test_teq_V213 : stops { State.reset with inDelaySlot := true } 0x00000034 (.trap 0) = true := by decide +kernel
theorem test_tne_V201 : stops (start [(1, 0x100000000), (2, 0)]) 0x00220036 (.trap 0) = true := by decide +kernel
theorem test_dsll_V132 :
    runs (start [(2, 0x800000000000001)]) 0x00021938 (fun t => t.reg 3 = 0x8000000000000010) = true := by
  decide +kernel
theorem test_dsrl_V133 :
    runs (start [(2, 0x8000000000000000)]) 0x0002193A (fun t => t.reg 3 = 0x800000000000000) = true := by
  decide +kernel
theorem test_dsra_V134 :
    runs (start [(2, 0x8000000000000000)]) 0x0002193B (fun t => t.reg 3 = 0xF800000000000000) = true := by
  decide +kernel
theorem test_dsll32_V136 :
    runs (start [(2, 1)]) 0x00021FFC (fun t => t.reg 3 = 0x8000000000000000) = true := by
  decide +kernel
theorem test_dsrl32_V137 :
    runs (start [(2, 0x8000000000000000)]) 0x0002183E (fun t => t.reg 3 = 0x80000000) = true := by
  decide +kernel
theorem test_dsra32_V139 :
    runs (start [(2, 0x8000000000000000)]) 0x00021FFF (fun t => t.reg 3 = 0xFFFFFFFFFFFFFFFF) = true := by
  decide +kernel
theorem test_bltz_V15 :
    runs (start [(1, 0xFFFFFFFFFFFFFFFF)]) 0x04200002 (fun t => t.pc = 0x1004 ∧ t.npc = 0x100C) = true := by
  decide +kernel
theorem test_bgez_V16 :
    runs (start [(1, 0xFFFFFFFFFFFFFFFF)]) 0x04210002 (fun t => t.pc = 0x1004 ∧ t.npc = 0x1008) = true := by
  decide +kernel
theorem test_bltzl_V22 :
    runs (start [(1, 1)]) 0x04220004 (fun t => t.pc = 0x1008 ∧ t.npc = 0x100C) = true := by
  decide +kernel
theorem test_bgezl_V23 :
    runs (start [(1, 0)]) 0x04230004 (fun t => t.pc = 0x1004 ∧ t.npc = 0x1014) = true := by
  decide +kernel
theorem test_tgei_V202 : stops (start [(1, 5)]) 0x04280005 (.trap 0) = true := by decide +kernel
theorem test_tgeiu_V203 :
    runs (start [(1, 0xFFFFFFFFFFFFFFFE)]) 0x0429FFFF (fun t => t.pc = 0x1004 ∧ t.npc = 0x1008) = true := by
  decide +kernel
theorem test_tlti_V204 : stops (start [(1, 0xFFFFFFFFFFFFFFFE)]) 0x042AFFFF (.trap 0) = true := by decide +kernel
theorem test_tltiu_V205 : stops (start [(1, 5)]) 0x042BFFFF (.trap 0) = true := by decide +kernel
theorem test_teqi_V206 : stops (start [(1, 0xFFFFFFFFFFFFFFFF)]) 0x042CFFFF (.trap 0) = true := by decide +kernel
theorem test_tnei_V207 :
    runs (start [(1, 5)]) 0x042E0005 (fun t => t.pc = 0x1004 ∧ t.npc = 0x1008) = true := by
  decide +kernel
theorem test_bltzal_V24 :
    runs (start [(1, 5)]) 0x04300004 (fun t => t.pc = 0x1004 ∧ t.npc = 0x1008 ∧ t.reg 31 = 0x1008) = true := by
  decide +kernel
theorem test_bgezal_V25 :
    runs (start [(1, 5)]) 0x04310004 (fun t => t.pc = 0x1004 ∧ t.npc = 0x1014 ∧ t.reg 31 = 0x1008) = true := by
  decide +kernel
theorem test_bgezal_V29 : refuses (start [(31, 5)]) 0x07F10004 .linkRegisterTested = true := by decide +kernel
theorem test_bltzall_V27 :
    runs (start [(1, 5)]) 0x04320004 (fun t => t.pc = 0x1008 ∧ t.npc = 0x100C ∧ t.reg 31 = 0x1008) = true := by
  decide +kernel
theorem test_bgezall_V28 :
    runs (start [(1, 5)]) 0x04330004 (fun t => t.pc = 0x1004 ∧ t.npc = 0x1014 ∧ t.reg 31 = 0x1008) = true := by
  decide +kernel
/-- Rows V215 to V228. -/
theorem test_non_cpu :
    stops State.reset 0x40000000 (.coprocessorUnusable 0) = true ∧
    stops State.reset 0x44000000 (.coprocessorUnusable 1) = true ∧
    stops State.reset 0x48000000 (.coprocessorUnusable 2) = true ∧
    stops State.reset 0x4C000000 (.coprocessorUnusable 1) = true ∧
    stops State.reset 0xBC000000 .reservedInstruction = true ∧
    stops State.reset 0xC4220000 (.coprocessorUnusable 1) = true ∧
    stops State.reset 0xC8220000 (.coprocessorUnusable 2) = true ∧
    stops State.reset 0xD4220000 (.coprocessorUnusable 1) = true ∧
    stops State.reset 0xD8220000 (.coprocessorUnusable 2) = true ∧
    stops State.reset 0xE4220000 (.coprocessorUnusable 1) = true ∧
    stops State.reset 0xE8220000 (.coprocessorUnusable 2) = true ∧
    stops State.reset 0xF4220000 (.coprocessorUnusable 1) = true ∧
    stops State.reset 0xF8220000 (.coprocessorUnusable 2) = true ∧
    stops State.reset 0x00000001 (.coprocessorUnusable 1) = true := by decide +kernel

/-- Rows E1 to E32, in mode IV. -/
theorem test_reserved :
    stops State.reset 0x73FFFFFF .reservedInstruction = true ∧
    stops State.reset 0x77FFFFFF .reservedInstruction = true ∧
    stops State.reset 0x7BFFFFFF .reservedInstruction = true ∧
    stops State.reset 0x7FFFFFFF .reservedInstruction = true ∧
    stops State.reset 0xEFFFFFFF .reservedInstruction = true ∧
    stops State.reset 0x03FFFFC5 .reservedInstruction = true ∧
    stops State.reset 0x03FFFFCE .reservedInstruction = true ∧
    stops State.reset 0x03FFFFD5 .reservedInstruction = true ∧
    stops State.reset 0x03FFFFE8 .reservedInstruction = true ∧
    stops State.reset 0x03FFFFE9 .reservedInstruction = true ∧
    stops State.reset 0x03FFFFF5 .reservedInstruction = true ∧
    stops State.reset 0x03FFFFF7 .reservedInstruction = true ∧
    stops State.reset 0x03FFFFF9 .reservedInstruction = true ∧
    stops State.reset 0x03FFFFFD .reservedInstruction = true ∧
    stops State.reset 0x07E4FFFF .reservedInstruction = true ∧
    stops State.reset 0x07E5FFFF .reservedInstruction = true ∧
    stops State.reset 0x07E6FFFF .reservedInstruction = true ∧
    stops State.reset 0x07E7FFFF .reservedInstruction = true ∧
    stops State.reset 0x07EDFFFF .reservedInstruction = true ∧
    stops State.reset 0x07EFFFFF .reservedInstruction = true ∧
    stops State.reset 0x07F4FFFF .reservedInstruction = true ∧
    stops State.reset 0x07F5FFFF .reservedInstruction = true ∧
    stops State.reset 0x07F6FFFF .reservedInstruction = true ∧
    stops State.reset 0x07F7FFFF .reservedInstruction = true ∧
    stops State.reset 0x07F8FFFF .reservedInstruction = true ∧
    stops State.reset 0x07F9FFFF .reservedInstruction = true ∧
    stops State.reset 0x07FAFFFF .reservedInstruction = true ∧
    stops State.reset 0x07FBFFFF .reservedInstruction = true ∧
    stops State.reset 0x07FCFFFF .reservedInstruction = true ∧
    stops State.reset 0x07FDFFFF .reservedInstruction = true ∧
    stops State.reset 0x07FEFFFF .reservedInstruction = true ∧
    stops State.reset 0x07FFFFFF .reservedInstruction = true := by decide +kernel

/-- Rows Q7, Q9, Q11, Q12, Q13: the historic coprocessor 3 entries. -/
theorem test_historic :
    (let s := { State.reset with config := cfg .II }
    [0x4C000000, 0xCC250000, 0xDC220000, 0xFC220000, 0xEC220000].all fun w => stops s w .reservedInstruction) = true := by
  decide +kernel

/-- Rows Q16, Q20, Q3, Q4. -/
theorem test_parameters :
    stops { State.reset with config := { Config.default with ops64Enabled := false } } 0x0022182D .reservedInstruction = true ∧
      stops { State.reset with config := cfg .III } 0x00000001 .reservedInstruction = true ∧
      stops { State.reset with config := { cfg .II with rhoIsCop0 := true } } 0xBC000000 (.coprocessorUnusable 0) = true ∧
      refuses { State.reset with config := { Config.default with cu := #v[false, true, false, false] } } 0xC4220000
        (.coprocessorEnabled 1) = true := by decide +kernel

/-! ### Witnesses: states and operands that meet the hypotheses of the statements -/

/-- With the default address map every byte may be accessed. -/
theorem allowed_everywhere (k : AccessKind) (a : Addr) : byteAnswer Config.default.regions k a = .allowed := by
  have h : regionHolds ⟨0, 0xFFFFFFFFFFFFFFFF, .allowed, .allowed, .allowed⟩ a = true := by
    have := a.isLt; simp [regionHolds]; omega
  show (if regionHolds _ a then regionAnswer _ k else _) = _
  rw [if_pos h]; cases k <;> rfl

/-- A state whose base register 1 holds an address. -/
def based (a : Addr) : State := start [(1, a), (2, 0x8123456789ABCDEF)]

/-- A machine with gaps: below 0x1003 every access is allowed, from 0x2000 to 0x2002 loads and stores are, and 0x3000 to
0x3FFF answers Address Error; every other address answers `MemoryFault`. -/
def fenced : State :=
  { based 0x2000 with
    config := { Config.default with
      regions := [⟨0x3000, 0x3FFF, .addressError, .addressError, .addressError⟩, ⟨0, 0x1002, .allowed, .allowed, .allowed⟩,
        ⟨0x2000, 0x2002, .memoryFault, .allowed, .allowed⟩] } }

theorem witness_DecodeEncode :
    (Instr.lw 31 0xFFFF 31).inMap Config.default.isaMode = true ∧ (Instr.cop3 0x3FFFFFF).inMap (cfg .II).isaMode = true ∧
      (Instr.reservedOp111011 0).inMap (cfg .III).isaMode = true := by decide

theorem witness_StepRunsFetchedInstruction :
    let s := State.reset.withFetchWord 32 0x8C220004
    s.exc = none ∧ s.pc.toNat % 4 = 0 ∧ Allowed s.config .fetch s.pc 4 ∧
      (∀ k, k < 4 → (s.pc + BitVec.ofNat 64 k).toNat ∉ s.stored) ∧
      decode s.config (BitVec.ofNat 32 (memValue s s.pc 4)) = .ok (.lw 2 4 1) :=
  ⟨rfl, by decide, fun _ _ => allowed_everywhere _ _, by decide, by rfl⟩

theorem witness_PlacedInstructionRuns :
    let s := State.reset
    s.exc = none ∧ s.pc.toNat % 4 = 0 ∧ Allowed s.config .fetch s.pc 4 ∧
      (Instr.pref 31 0xFFFF 31).inMap s.config.isaMode = true :=
  ⟨rfl, by decide, fun _ _ => allowed_everywhere _ _, by decide⟩

theorem witness_FetchExceptions_misaligned :
    let s := { State.reset with pc := 0x1002 }
    s.exc = none ∧ s.pc.toNat % 4 ≠ 0 := by decide

theorem witness_FetchExceptions_memoryFault :
    let s := { fenced with pc := 0x1000 }
    s.exc = none ∧ s.pc.toNat % 4 = 0 ∧ Denied s.config .fetch (WholeItem s.pc 4) s.pc (.memoryFault s.pc .fetch) := by
  refine ⟨rfl, by decide, ⟨0x1003, ⟨3, by decide, by decide⟩, by decide⟩, ?_, fun _ => rfl⟩
  rintro ⟨a, ⟨k, hk, rfl⟩, h⟩
  revert h; revert k; decide

theorem witness_FetchExceptions_addressError :
    let s := { fenced with pc := 0x3000 }
    s.exc = none ∧ s.pc.toNat % 4 = 0 ∧ Denied s.config .fetch (WholeItem s.pc 4) s.pc (.addressErrorLoad s.pc) := by
  refine ⟨rfl, by decide, ⟨0x3000, ⟨0, by decide, by decide⟩, by decide⟩, fun _ => rfl, fun h => ?_⟩
  exact absurd (by decide) (h 0x3000 ⟨0, by decide, by decide⟩)

theorem witness_StepRefusals_stored :
    let s := { State.reset with stored := [0x1003] }
    s.exc = none ∧ s.pc.toNat % 4 = 0 ∧ Allowed s.config .fetch s.pc 4 ∧
      ∃ k, k < 4 ∧ (s.pc + BitVec.ofNat 64 k).toNat ∈ s.stored :=
  ⟨rfl, by decide, fun _ _ => allowed_everywhere _ _, 3, by decide, by decide⟩

theorem witness_StepRefusals_mustBeZero :
    let s := State.reset.withFetchWord 32 0x0000004F
    s.exc = none ∧ s.pc.toNat % 4 = 0 ∧ Allowed s.config .fetch s.pc 4 ∧
      (∀ k, k < 4 → (s.pc + BitVec.ofNat 64 k).toNat ∉ s.stored) ∧
      decode s.config (BitVec.ofNat 32 (memValue s s.pc 4)) = .error (.mustBeZeroField .sync) :=
  ⟨rfl, by decide, fun _ _ => allowed_everywhere _ _, by decide, by rfl⟩

theorem witness_ExceptionsArePrecise :
    ∃ t r, step (State.reset.withFetchWord 32 0x0000000C) = .next t ∧ t.exc = some r := ⟨_, _, rfl, rfl⟩

theorem witness_ConditionalTraps :
    let s := start [(1, 0xFFFFFFFFFFFFFFFF), (2, 0)]
    (s.reg 2).toInt ≥ (s.reg 1).toInt ∧ ¬(s.reg 1).toInt ≥ (s.reg 2).toInt ∧ (s.reg 1).toNat ≥ (s.reg 2).toNat ∧
      ¬(s.reg 2).toNat ≥ (s.reg 1).toNat ∧ s.reg 1 ≠ s.reg 2 ∧ s.reg 1 = ((0xFFFF : BitVec 16).signExtend 64 : DWord) := by
  decide

theorem witness_CoprocessorEntries :
    State.reset.config.cu[(1 : Fin 4)] = false ∧ HasIV State.reset.config ∧
      ({ Config.default with cu := #v[true, true, true, true] } : Config).cu[(1 : Fin 4)] = true ∧
      HasIV { Config.default with cu := #v[true, true, true, true] } := ⟨by decide, rfl, by decide, rfl⟩

theorem witness_RhoEntry :
    State.reset.config.rhoIsCop0 = false ∧
      (let c := { Config.default with rhoIsCop0 := true }; c.rhoIsCop0 = true ∧ c.cu[(0 : Fin 4)] = false) ∧
      (let c := { Config.default with rhoIsCop0 := true, cu := #v[true, false, false, false] }
       c.rhoIsCop0 = true ∧ c.cu[(0 : Fin 4)] = true) := by decide

theorem witness_HigherLevelsRaise :
    ¬Has64 (cfg .II) ∧ ¬Has64 { Config.default with ops64Enabled := false } ∧ ¬HasIV (cfg .III) ∧ ¬HasIV (cfg .II) := by
  unfold Has64 HasIV; decide

/-- WordArithmetic, WordShifts, WordMultiply, at the two ends of the word values. -/
theorem witness_words :
    let s := start [(1, 0xFFFFFFFF80000000), (2, 0x7FFFFFFF)]
    IsWord (s.reg 1) ∧ IsWord (s.reg 2) ∧ IsWord (s.reg 0) ∧ s.reg 2 ≠ 0 ∧ s.hiGuard = 0 ∧ s.loGuard = 0 := by
  unfold IsWord; decide

theorem witness_TrappingArithmetic_word :
    let s := start [(1, 0x7FFFFFFF), (2, 1), (3, 0xFFFFFFFF80000000)]
    let n := fun r => (s.reg r).toInt
    (IsWord (s.reg 1) ∧ IsWord (s.reg 2) ∧ IsWord (s.reg 3)) ∧
      (¬FitsWord (n 1 + (1 : BitVec 16).toInt) ∧ FitsWord (n 1 + (0 : BitVec 16).toInt)) ∧
      (¬FitsWord (n 1 + n 2) ∧ FitsWord (n 1 + n 3) ∧ ¬FitsWord (n 3 - n 2) ∧ FitsWord (n 1 - n 2)) := by
  unfold IsWord FitsWord; decide

theorem witness_TrappingArithmetic_doubleword :
    let s := start [(1, 0x7FFFFFFFFFFFFFFF), (2, 1), (3, 0x8000000000000000)]
    let n := fun r => (s.reg r).toInt
    Has64 s.config ∧ (¬FitsDoubleword (n 1 + (1 : BitVec 16).toInt) ∧ FitsDoubleword (n 1 + (0 : BitVec 16).toInt)) ∧
      (¬FitsDoubleword (n 1 + n 2) ∧ FitsDoubleword (n 1 + n 3) ∧ ¬FitsDoubleword (n 3 - n 2) ∧
        FitsDoubleword (n 1 - n 2)) := by
  unfold Has64 FitsDoubleword; decide

/-- NonWordArithmetic and the last clause of WordShifts. -/
theorem witness_NonWordArithmetic :
    let s := start [(1, 0x80000000), (2, 0x100000000)]
    ¬IsWord (s.reg 1) ∧ ¬(IsWord (s.reg 0) ∧ IsWord (s.reg 2)) := by unfold IsWord; decide

/-- DoublewordArithmetic, DoublewordShifts, PrefetchAndSync. -/
theorem witness_modes : Has64 State.reset.config ∧ Has64 (cfg .III) ∧ HasIV State.reset.config := by
  unfold Has64 HasIV; decide

theorem witness_ConditionalMoves :
    let s := start [(2, 0x100000000)]
    HasIV s.config ∧ s.reg 1 = 0 ∧ s.reg 2 ≠ 0 := by unfold HasIV; decide

theorem witness_WordDivide :
    let s := start [(1, 0xFFFFFFFF80000000), (2, 0xFFFFFFFFFFFFFFFF), (3, 1)]
    IsWord (s.reg 1) ∧ IsWord (s.reg 3) ∧ s.reg 3 ≠ 0 ∧ s.hiGuard = 0 ∧ s.loGuard = 0 ∧
      ¬((s.reg 1).toInt = -2 ^ 31 ∧ (s.reg 3).toInt = -1) := by unfold IsWord; decide

theorem witness_DoublewordMultiplyDivide :
    let s := start [(1, 0x8000000000000000), (3, 1)]
    Has64 s.config ∧ s.hiGuard = 0 ∧ s.loGuard = 0 ∧ s.reg 3 ≠ 0 ∧
      ¬((s.reg 1).toInt = -2 ^ 63 ∧ (s.reg 3).toInt = -1) := by unfold Has64; decide

theorem witness_UndefinedMultiplyDivide :
    let s := start [(1, 0xFFFFFFFF80000000), (2, 0xFFFFFFFFFFFFFFFF), (3, 0x80000000), (4, 0x8000000000000000)]
    Has64 s.config ∧ s.hiGuard = 0 ∧ s.loGuard = 0 ∧ ¬(IsWord (s.reg 3) ∧ IsWord (s.reg 2)) ∧ s.reg 0 = 0 ∧
      (s.reg 1).toInt = -2 ^ 31 ∧ (s.reg 2).toInt = -1 ∧ (s.reg 4).toInt = -2 ^ 63 := by unfold IsWord Has64; decide

theorem witness_MoveToHiLo :
    (State.reset.hiGuard = 0 ∧ State.reset.loGuard = 0 ∧ State.reset.hiloUnread = false) ∧
      (let s := { State.reset with hiloUnread := true }; s.hiGuard = 0 ∧ s.loGuard = 0 ∧ s.hiloUnread = true) := by decide

theorem witness_HiLoHazardRefused :
    let s := { State.reset with hiGuard := 1, loGuard := 2 }
    s.config.hiLoHazard = .refuse ∧ s.hiGuard ≠ 0 ∧ s.loGuard ≠ 0 ∧ Has64 s.config := by unfold Has64; decide

/-- Both guards set under the alternative: register 5 is hazarded by a write of HI, 31 by one of LO, and 6 by none. -/
def hazarded : State :=
  { start [(1, 0xFFFFFFFF80000000), (2, 0xFFFFFFFFFFFFFFFF), (3, 1), (4, 0x8000000000000000)] with
    config := { Config.default with hiLoHazard := .destinationAny }, hiGuard := 2, loGuard := 1
    hiReads := ⟨some 5, none⟩, loReads := ⟨none, some 31⟩, hiloUnread := true }

theorem witness_HiLoHazardAny :
    hazarded.config.hiLoHazard = .destinationAny ∧ Has64 hazarded.config ∧ hazarded.hiloUnread = true ∧
      (Hazarded (.mthi 1) hazarded 5 ∧ ¬Hazarded (.mthi 1) hazarded 31 ∧ ¬Hazarded (.mthi 1) hazarded 6) ∧
      (Hazarded (.mtlo 1) hazarded 31 ∧ ¬Hazarded (.mtlo 1) hazarded 5) ∧
      (Hazarded (.ddiv 1 2) hazarded 5 ∧ Hazarded (.ddiv 1 2) hazarded 31 ∧ ¬Hazarded (.ddiv 1 2) hazarded 6) ∧
      ∀ r, ¬Hazarded (.mult 1 3) { hazarded with hiGuard := 0, loGuard := 0 } r :=
  ⟨rfl, by unfold Has64; decide, rfl,
    ⟨.inl ⟨rfl, by decide, .inl rfl⟩, by simp [Hazarded, writesHi, writesLo, ReadWindow.Holds, hazarded],
      by simp [Hazarded, writesHi, writesLo, ReadWindow.Holds, hazarded]⟩,
    ⟨.inr ⟨rfl, by decide, .inr rfl⟩, by simp [Hazarded, writesHi, writesLo, ReadWindow.Holds, hazarded]⟩,
    ⟨.inl ⟨rfl, by decide, .inl rfl⟩, .inr ⟨rfl, by decide, .inr rfl⟩,
      by simp [Hazarded, writesHi, writesLo, ReadWindow.Holds, hazarded]⟩, by simp [Hazarded]⟩

/-- The operands a guarded multiply or divide reads: a result defined, and each ground for an undefined one. -/
theorem witness_HiLoHazardAny_operands :
    ∃ t, exec (.mult 1 3) hazarded = .next t ∧ (IsWord (t.reg 1) ∧ IsWord (t.reg 3) ∧ t.reg 3 ≠ 0) ∧ t.reg 0 = 0 ∧
      ¬IsWord (t.reg 4) ∧ ((t.reg 1).toInt = -2 ^ 31 ∧ (t.reg 2).toInt = -1 ∧ (t.reg 4).toInt = -2 ^ 63) :=
  ⟨_, rfl, by unfold IsWord; decide +kernel, by decide +kernel, by unfold IsWord; decide +kernel, by decide +kernel⟩

/-- An MFHI just executed; and a step after which a destination read just before is in the older place of the window. -/
theorem witness_ReadWindowsFollow :
    (∃ t, exec (.mfhi 5) State.reset = .next t ∧ t.exc = none ∧ t.hiReads.last = some 5 ∧ t.loReads.last = none) ∧
      (∃ t, exec (.addu 6 5 5) hazarded = .next t ∧ t.exc = none ∧ hazarded.hiReads.last = some 5 ∧
        destination (.addu 6 5 5) ≠ some 5 ∧ ¬Hazarded (.addu 6 5 5) hazarded 5 ∧ t.hiReads.prev = some 5) :=
  ⟨⟨_, rfl, rfl, by decide, by decide⟩,
    ⟨_, rfl, rfl, rfl, by decide, by simp [Hazarded, writesHi, writesLo], by decide +kernel⟩⟩

theorem witness_OnlyTheseWriteHiLo :
    ∃ t, exec (.mthi 2) (based 0) = .next t ∧ (t.hi ≠ (based 0).hi ∨ t.lo ≠ (based 0).lo) :=
  ⟨_, rfl, .inl (by decide +kernel)⟩

theorem witness_ItemHoldsAddress : 0 < 8 ∧ (itemOf 0x2007 8).toNat = 0x2000 := by decide

/-- AlignedLoads, AlignedStores, LoadAfterStore, LoadLinked, StoreConditional: the aligned accesses of every size, at the top of
memory, reached by wrapping. -/
theorem witness_aligned_access :
    let s := based 0
    let ea := effectiveAddr s 0xFFF8 1
    ea = 0xFFFFFFFFFFFFFFF8 ∧ ea.toNat % 1 = 0 ∧ ea.toNat % 2 = 0 ∧ ea.toNat % 4 = 0 ∧ ea.toNat % 8 = 0 ∧ Has64 s.config ∧
      ∀ k n, Allowed s.config k ea n :=
  ⟨by decide, by decide, by decide, by decide, by decide, by unfold Has64; decide, fun k _ _ _ => allowed_everywhere k _⟩

theorem witness_MisalignedAccessesRaise :
    let ea := fun offset => effectiveAddr (based 0x2000) offset 1
    (ea 1).toNat % 2 ≠ 0 ∧ (ea 2).toNat % 4 ≠ 0 ∧ (ea 4).toNat % 8 ≠ 0 ∧ Has64 (based 0x2000).config := by
  unfold Has64; decide

theorem witness_DeniedAccessesRaise_memoryFault :
    let ea := effectiveAddr fenced 0 1
    ea.toNat % 4 = 0 ∧ Denied fenced.config .load (WholeItem ea 4) ea (.memoryFault ea .load) := by
  refine ⟨by decide, ⟨0x2003, ⟨3, by decide, by decide⟩, by decide⟩, ?_, fun _ => rfl⟩
  rintro ⟨a, ⟨k, hk, rfl⟩, h⟩
  revert h; revert k; decide

theorem witness_DeniedAccessesRaise_addressError :
    let ea := effectiveAddr fenced 0x1FF8 1
    ea.toNat % 8 = 0 ∧ Has64 fenced.config ∧ Denied fenced.config .store (WholeItem ea 8) ea (.addressErrorStore ea) := by
  unfold Has64
  refine ⟨by decide, by decide, ⟨0x3FFF, ⟨7, by decide, by decide⟩, by decide⟩, fun _ => rfl, fun h => ?_⟩
  exact absurd (by decide) (h 0x3FFF ⟨7, by decide, by decide⟩)

/-- A part of an item whose other bytes alone are denied is not denied, and the rest of it is: 0x2001 with
`BigEndianCPU` = 1 divides the word into bytes 1 to 3 and bytes 0 to 1. -/
theorem witness_DeniedAccessesRaise_part :
    let ea := effectiveAddr fenced 1 1
    AllowedPart fenced.config .load ea 4 (InRight fenced.config ea 4) ∧
      Denied fenced.config .load (PartOfItem ea 4 (InLeft fenced.config ea 4)) ea (.memoryFault ea .load) := by
  refine ⟨?_, ⟨0x2003, ⟨3, ⟨by decide, by decide⟩, by decide⟩, by decide⟩, ?_, fun _ => rfl⟩
  · rintro i ⟨hi, h⟩
    revert h; revert i; decide
  · rintro ⟨a, ⟨k, ⟨hk, -⟩, rfl⟩, h⟩
    revert h; revert k; decide

theorem witness_UnalignedLoads_and_UnalignedStores :
    let s := based 0x2003
    let ea := effectiveAddr s 0 1
    ea.toNat % 8 = 3 ∧ Has64 s.config ∧ ∀ k n, AllowedPart s.config k ea n (InLeft s.config ea n) ∧
      AllowedPart s.config k ea n (InRight s.config ea n) :=
  ⟨by decide, by unfold Has64; decide, fun k _ => ⟨fun _ _ => allowed_everywhere k _, fun _ _ => allowed_everywhere k _⟩⟩

/-- The idioms over the end of memory, in both byte orders. -/
theorem witness_UnalignedLoadIdiom_and_UnalignedStoreIdiom :
    let s := based 0xFFFFFFFFFFFFFFFD
    let ea := effectiveAddr s 0 1
    (2 : RegIdx) ≠ 0 ∧ (2 : RegIdx) ≠ 1 ∧ effectiveAddr s 3 1 = ea + 3 ∧ effectiveAddr s 7 1 = ea + 7 ∧ Has64 s.config ∧
      (little s).config.bigEndian ≠ s.config.bigEndian ∧ ∀ k n, Allowed s.config k ea n ∧ Allowed (little s).config k ea n :=
  ⟨by decide, by decide, by decide, by decide, by unfold Has64; decide, by decide,
    fun k _ => ⟨fun _ _ => allowed_everywhere k _, fun _ _ => allowed_everywhere k _⟩⟩

theorem witness_ByteOfStoredWord :
    let s := based 0x2000
    let ea := effectiveAddr s 4 1
    3 < 4 ∧ effectiveAddr s 7 1 = ea + BitVec.ofNat 64 3 ∧ ea.toNat % 4 = 0 ∧ Allowed s.config .store ea 4 ∧
      Allowed s.config .load ea 4 :=
  ⟨by decide, by decide, by decide, fun _ _ => allowed_everywhere _ _, fun _ _ => allowed_everywhere _ _⟩

theorem witness_OnlyStoresChangeMemory :
    ∃ t, exec (.sb 2 0 1) (based 0x2000) = .next t ∧
      (t.mem ≠ (based 0x2000).mem ∨ t.stored ≠ (based 0x2000).stored) := ⟨_, rfl, .inl (by decide +kernel)⟩

/-- An intact sequence in the block of `pc`: SYNC keeps it, a load ends it, and so does an instruction of another block. -/
theorem witness_LinkSequenceIntact :
    let s := { based 0x2000 with llIntact := true, llBlock := 2 }
    s.pc.toNat / 2048 = s.llBlock.toNat ∧ ({ s with pc := 0x1800 } : State).pc.toNat / 2048 ≠ s.llBlock.toNat ∧
      isAccess (.lb 3 0 1) = true ∧ (∃ t, exec .sync s = .next t ∧ t.exc = none ∧ t.llIntact = true) ∧
      (∃ t, exec (.lb 3 0 1) s = .next t ∧ t.exc = none ∧ t.llIntact = false) ∧
      ∃ t, exec .sync { s with pc := 0x1800 } = .next t ∧ t.exc = none ∧ t.llIntact = false :=
  ⟨by decide, by decide, rfl, ⟨_, rfl, rfl, by decide⟩, ⟨_, rfl, rfl, by decide⟩, ⟨_, rfl, rfl, by decide⟩⟩

/-- Paired with `LLbit` = 0, paired with `LLbit` = 1 and the strengthening, without it, and not paired. -/
theorem witness_StoreConditional :
    let s := { based 0x2000 with llAddr := 0x2004, llWidth := some .word }
    let t := { s with llBit := true, llIntact := true, llBlock := 2, config := { Config.default with scPolicy := .succeedsIfIntact } }
    effectiveAddr s 4 1 = 0x2004 ∧ (Paired s .word 0x2004 ∧ s.llBit = false) ∧
      (Paired t .word 0x2004 ∧ t.llBit = true ∧ MustSucceed t) ∧
      (Paired { s with llBit := true } .word 0x2004 ∧ ¬MustSucceed { s with llBit := true }) ∧ ¬Paired s .doubleword 0x2004 := by
  unfold Paired MustSucceed; decide

theorem witness_OnlyTheseChangeTheLink :
    ∃ t, exec (.ll 2 4 1) (based 0x2000) = .next t ∧ t.llBit ≠ (based 0x2000).llBit ∧ t.llAddr ≠ (based 0x2000).llAddr :=
  ⟨_, rfl, by decide +kernel, by decide +kernel⟩

/-- Also UndefinedOperandsRefused. Outside a delay slot, each condition holding and failing; and the two operand conditions. -/
theorem witness_Jumps_BranchesWithSlot_LikelyBranches :
    let s := start [(1, 0xFFFFFFFFFFFFFFFF), (2, 1)]
    s.inDelaySlot = false ∧ (30 : RegIdx) ≠ 31 ∧ s.reg 1 ≠ s.reg 2 ∧ s.reg 3 = s.reg 0 ∧ (s.reg 1).toInt < 0 ∧
      ¬(s.reg 0).toInt < 0 ∧ (s.reg 0).toInt ≤ 0 ∧ ¬(s.reg 0).toInt > 0 ∧ (s.reg 2).toInt > 0 ∧ s.npc = s.pc + 4 := by decide

theorem witness_BranchInDelaySlotRefused : ({ State.reset with inDelaySlot := true } : State).inDelaySlot = true := rfl

theorem witness_OnlyBranchesTransferControl :
    ∃ t, exec (.j 0x800) State.reset = .next t ∧ State.reset.exc = none ∧ t.exc = none ∧ ¬Continues State.reset t :=
  ⟨_, rfl, rfl, rfl, fun h => absurd h.2.2 (by decide)⟩

/-- The reset state with the word 0 placed: it meets the invariant and takes a step. -/
theorem witness_ParametersFixed_and_InvariantKept :
    let s := State.reset.withFetchWord 32 0
    s.Inv ∧ ∃ t, step s = .next t :=
  ⟨⟨by decide +kernel, by decide, by decide, by decide +kernel, by decide, by decide, by decide, by decide,
    fun _ h => (by cases h), by decide, by decide, fun _ h => (by cases h)⟩, _, rfl⟩

/-- A launch state that is not the reset state. -/
theorem witness_InvariantAtLaunch :
    State.IsLaunch { State.launch { Config.default with entryPC := 0xFFFFFFFF80000000 } [(0x2000, 0x11)] with hi := 5 } :=
  ⟨rfl, by decide, fun _ _ => allowed_everywhere _ _, rfl, rfl, rfl, rfl, rfl, by decide +kernel, by decide, rfl, rfl, rfl,
    rfl, rfl⟩

end Sys2Proof.Tests
end

/-! The state of 10_state.md and every step: the invariant of every run is kept (O58), the comparisons (O20), and
which instructions alone change HI and LO (O33), the link registers (O50) and the line of control (O56). The claims about
all instructions go through `exec_effect`, by cases on the shape of the next state. -/

namespace Sys2Proof.Machine

/-! ### Fields that a change of general registers alone keeps -/

section
variable {w : RegIdx → Prop} {s u : State}

theorem RegsOnly.hiLo_eq (h : RegsOnly w s u) : u.hi = s.hi ∧ u.lo = s.lo := by
  obtain ⟨hi, lo, -⟩ := h.same
  exact ⟨hi, lo⟩

theorem RegsOnly.npc_eq (h : RegsOnly w s u) : u.npc = s.npc := by rw [h.eq]

theorem RegsOnly.pc_eq (h : RegsOnly w s u) : u.pc = s.pc := by rw [h.eq]

theorem RegsOnly.inDelaySlot_eq (h : RegsOnly w s u) : u.inDelaySlot = s.inDelaySlot := by rw [h.eq]

theorem RegsOnly.exc_eq (h : RegsOnly w s u) : u.exc = s.exc := by rw [h.eq]

theorem RegsOnly.llBit_eq (h : RegsOnly w s u) : u.llBit = s.llBit := by rw [h.eq]

theorem RegsOnly.llAddr_eq (h : RegsOnly w s u) : u.llAddr = s.llAddr := by rw [h.eq]

end

/-! ### Guards and windows of reads (70_reset_and_hazards.md R350; log entry 12) -/

/-- A window of reads agrees with its guard: it is empty where the guard is 0, and holds no newest entry where it is 1. -/
def WindowFits (g : BitVec 2) (w : ReadWindow) : Prop := (g = 0 → w = ⟨none, none⟩) ∧ (g = 1 → w.last = none)

/-- What `State.Inv` says of each window is `WindowFits`. -/
theorem State.Inv.windows_fit {s : State} (h : s.Inv) : WindowFits s.hiGuard s.hiReads ∧ WindowFits s.loGuard s.loReads :=
  ⟨h.hi_window, h.lo_window⟩

/-- A window that follows the registers gains no entry, so it still fits. -/
theorem WindowFits.follows {p : RegIdx → Prop} {s u : State} {g : BitVec 2} {old new : ReadWindow}
    (h : WindowFits g old) (hf : ReadWindow.Follows p s u old new) : WindowFits g new := by
  obtain ⟨h0, h1⟩ := h
  have last_none (e : old.last = none) : new.last = none :=
    Option.eq_none_iff_forall_ne_some.mpr fun r hr => by simpa [e] using (hf.last_held r hr).1
  have prev_none (e : old.prev = none) : new.prev = none :=
    Option.eq_none_iff_forall_ne_some.mpr fun r hr => by simpa [e] using hf.prev_held r hr
  refine ⟨fun hg => ?_, fun hg => last_none (h1 hg)⟩
  obtain rfl := h0 hg
  exact congrArg₂ ReadWindow.mk (last_none rfl) (prev_none rfl)

/-- A guard that counts down to 0 was 1 or 0 already. -/
theorem guardStep_eq_zero (g : BitVec 2) : guardStep g = 0 ↔ g = 0 ∨ g = 1 := by
  revert g; decide

/-- The end of an instruction moves the window on as its guard counts down. -/
theorem WindowFits.shift {g : BitVec 2} {w : ReadWindow} (h : WindowFits g w) : WindowFits (guardStep g) w.shift := by
  obtain ⟨h0, h1⟩ := h
  refine ⟨fun hz => ?_, fun _ => rfl⟩
  have last : w.last = none := by
    rcases (guardStep_eq_zero g).mp hz with rfl | rfl
    · rw [h0 rfl]
    · exact h1 rfl
  simp [ReadWindow.shift, last]

/-- A guard of 2 asks nothing of its window. -/
theorem WindowFits.two (w : ReadWindow) : WindowFits 2 w := ⟨fun h => absurd h (by decide), fun h => absurd h (by decide)⟩

/-! ### What keeps the invariant before the end of an instruction -/

section
variable {s u : State}

/-- Changes of general registers alone. -/
theorem State.Inv.regsOnly {p : RegIdx → Prop} (h : s.Inv) (hu : RegsOnly p s u) : u.Inv := by
  obtain ⟨hi, lo⟩ := h.windows_fit
  rw [hu.eq]
  exact { h with
    zero_slot := hu.zero.trans h.zero_slot
    hi_window := hi.follows hu.hi_window
    lo_window := lo.follows hu.lo_window }

/-- A data access. -/
theorem State.Inv.accessed (h : s.Inv) : s.accessed.Inv := { h with }

/-- Storing a byte. -/
theorem State.Inv.storeByte (h : s.Inv) (a : Addr) (b : Byte) : (s.storeByte a b).Inv :=
  have ⟨rising, listed⟩ := State.storeBytes_keeps [(a, b)] h.stored_rising h.stored_listed
  { h with
    mem_wf := State.storeByte_wf h.mem_wf a b
    stored_rising := rising
    stored_listed := listed }

/-- Storing bytes. -/
theorem State.Inv.storeBytes (l : List (Addr × Byte)) (h : s.Inv) : (s.storeBytes l).Inv := by
  induction l generalizing s with
  | nil => exact h
  | cons e l ih => exact ih (h.storeByte e.1 e.2)

/-- Storing into a lane. -/
theorem State.Inv.writeLane (h : s.Inv) (l : Lane) (v : DWord) : (s.writeLane l v).Inv := h.storeBytes _

/-- Beginning a load linked sequence at an aligned address (43_atomic_prefetch_sync.md R192, R193). -/
theorem State.Inv.linked (h : s.Inv) {w : LinkWidth} {ea : Addr} (ha : aligned ea (linkBytes w) = true) :
    (s.linked w ea).Inv :=
  { h with link_aligned := by rintro _ ⟨⟩; exact (aligned_iff _ _).mp ha }

/-- A write of `LLbit`. -/
theorem State.Inv.withLLbit (h : s.Inv) (b : Bool) : (s.withLLbit b).Inv := { h with }

/-- Writes of HI and LO. -/
theorem State.Inv.hiLo (h : s.Inv) (hv lv : DWord) (b : Bool) : ({ s with hi := hv, lo := lv, hiloUnread := b } : State).Inv :=
  { h with }

/-- A read of HI or LO. -/
theorem State.Inv.hiLoRead (h : s.Inv) : s.hiLoRead.Inv := { h with }

/-! ### What keeps the invariant as an instruction ends -/

/-- A flow is allowed from a state: the straight line always, and a transfer outside a delay slot at an aligned `pc`. -/
def FlowAllowed (s : State) (f : Flow) : Prop := f = .next ∨ (s.inDelaySlot = false ∧ s.pc.toNat % 4 = 0)

/-- The word after an aligned one is aligned, also past the end of the address space. -/
theorem add_four_aligned {a : Addr} (h : a.toNat % 4 = 0) : (a + 4).toNat % 4 = 0 := by
  have four : (4 : Addr).toNat = 4 := rfl
  rw [BitVec.toNat_add, four]
  omega

/-- Outside a delay slot `npc` is the next word after every flow. -/
theorem Flow.straight_after (f : Flow) (npc : Addr) (h : f.slotAfter = false) : f.npcAfter npc = f.pcAfter npc + 4 := by
  cases f with
  | next => rfl
  | nullify => simp [Flow.npcAfter, Flow.pcAfter, BitVec.add_assoc]
  | transfer | notTaken => cases h

/-- A flow into a delay slot goes to `npc`. -/
theorem Flow.pcAfter_of_slot (f : Flow) (npc : Addr) (h : f.slotAfter = true) : f ≠ .next ∧ f.pcAfter npc = npc := by
  cases f with
  | next | nullify => cases h
  | transfer | notTaken => exact ⟨by simp, rfl⟩

/-- The end of an instruction that raises nothing. -/
theorem State.Inv.retire (h : s.Inv) (hx : s.exc = none) {f : Flow} (hf : FlowAllowed s f) : (s.retire f).Inv := by
  obtain ⟨hi, lo⟩ := h.windows_fit
  refine { h with
    hi_guard := ?_
    lo_guard := ?_
    straight := f.straight_after s.npc
    slot_aligned := fun hs => ?_
    hi_window := hi.shift
    lo_window := lo.shift
    record := fun r hr => ?_ }
  · rw [State.retire_hiGuard, guardStep_toNat]; exact (Nat.sub_le _ _).trans h.hi_guard
  · rw [State.retire_loGuard, guardStep_toNat]; exact (Nat.sub_le _ _).trans h.lo_guard
  · obtain ⟨hne, hpc⟩ := f.pcAfter_of_slot s.npc hs
    obtain ⟨hd, ha⟩ := hf.resolve_left hne
    rw [State.retire_pc, hpc, h.straight hd]
    exact add_four_aligned ha
  · rw [State.retire_exc, hx] at hr; cases hr

/-- The guard MFHI sets. -/
theorem State.Inv.guardHiRead (h : s.Inv) (rd : RegIdx) : (s.guardHiRead rd).Inv :=
  { h with hi_guard := le_refl 2, hi_window := WindowFits.two _ }

/-- The guard MFLO sets. -/
theorem State.Inv.guardLoRead (h : s.Inv) (rd : RegIdx) : (s.guardLoRead rd).Inv :=
  { h with lo_guard := le_refl 2, lo_window := WindowFits.two _ }

/-- A stop at an exception, with the record of the state it stops in (60_exceptions.md R311). -/
theorem State.Inv.stops (h : s.Inv) (e : Exception) (d : Nat) :
    ({ s with exc := some (s.recordOf e), draws := d } : State).Inv :=
  { h with record := by rintro _ ⟨⟩; exact ⟨rfl, rfl⟩ }

end

/-! ### Every step keeps the invariant -/

/-- Changes of general registers and then the end of an instruction in a straight line. -/
theorem State.Inv.regsOnly_retire {p : RegIdx → Prop} {s u : State} (h : s.Inv) (hx : s.exc = none)
    (hu : RegsOnly p s u) : (u.retire .next).Inv :=
  (h.regsOnly hu).retire (hu.exc_eq.trans hx) (.inl rfl)

/-- Every shape of a next state keeps the invariant, where the machine runs and `pc` is aligned. -/
theorem Effect.keeps_inv {i : Instr} {s t : State} (ht : Effect i s t) (h : s.Inv) (hx : s.exc = none)
    (ha : s.pc.toNat % 4 = 0) : t.Inv := by
  cases ht with
  | stops e d => exact h.stops e d
  | computes _ u hu => exact h.regsOnly_retire hx hu
  | accesses _ u hu => exact h.accessed.regsOnly_retire hx hu
  | stores _ l v => exact (h.accessed.writeLane l v).retire (by simpa using hx) (.inl rfl)
  | links _ w ea haligned u hu => exact (h.linked haligned).regsOnly_retire hx hu
  | conditional _ m hm b u hu =>
    have hm : m.Inv ∧ m.exc = none := by
      rcases hm with rfl | ⟨l, v, rfl⟩
      · exact ⟨h.accessed, hx⟩
      · exact ⟨h.accessed.writeLane l v, by simpa using hx⟩
    exact (hm.1.withLLbit b).regsOnly_retire hm.2 hu
  | transfers _ hs f u hu =>
    exact (h.regsOnly hu).retire (hu.exc_eq.trans hx)
      (.inr ⟨hu.inDelaySlot_eq.trans hs, by rw [hu.pc_eq]; exact ha⟩)
  | readsHi rd _ u hu => exact ((h.regsOnly hu).hiLoRead.retire (hu.exc_eq.trans hx) (.inl rfl)).guardHiRead rd
  | readsLo rd _ u hu => exact ((h.regsOnly hu).hiLoRead.retire (hu.exc_eq.trans hx) (.inl rfl)).guardLoRead rd
  | writesHiLo _ u hu hv lv b => exact ((h.regsOnly hu).hiLo hv lv b).retire (hu.exc_eq.trans hx) (.inl rfl)

/-- Settles O58: a step stops at the fetch, or runs an instruction fetched from an aligned `pc`. -/
theorem invariantKept : Obligations.InvariantKept := by
  intro s t h hstep
  obtain ⟨hx, ⟨_, rfl⟩ | ⟨_, e, _, rfl⟩ | ⟨ha, _, _, i, _, hi⟩⟩ := step_next hstep
  · exact h.stops _ _
  · exact h.stops e _
  · exact (exec_effect hi).keeps_inv h hx ((aligned_iff _ _).mp ha)

/-! ### Comparisons (10_state.md R27) -/

/-- An instruction that writes the result of a test writes 1 where it holds and 0 where not. -/
theorem writes_of_test {i : Instr} {s : State} {rd : RegIdx} {b : Bool} {p : Prop} [Decidable p]
    (h : exec i s = writeResult s rd (boolValue b)) (hb : b = true ↔ p) : Writes i s rd (if p then 1 else 0) := by
  rw [boolValue, if_congr hb rfl rfl] at h
  exact writes_of_writeResult h

/-- Settles O20, each comparison by its test. -/
theorem comparisons : Obligations.Comparisons := by
  intro s rd rs rt imm
  refine ⟨writes_of_test rfl (ltSigned_iff _ _), writes_of_test rfl (ltUnsigned_iff _ _), writes_of_test rfl ?_,
    writes_of_test rfl (ltUnsigned_iff _ (signImm imm))⟩
  rw [ltSigned_iff, signImm_toInt]

/-! ### HI and LO (10_state.md R29) -/

/-- An access, with or without a store, keeps HI, LO, `npc` and `LLaddr`. -/
theorem accessed_or_stored {s m : State} (hm : m = s.accessed ∨ ∃ l v, m = s.accessed.writeLane l v) :
    m.hi = s.hi ∧ m.lo = s.lo ∧ m.npc = s.npc ∧ m.llAddr = s.llAddr := by
  rcases hm with rfl | ⟨l, v, rfl⟩ <;> simp

/-- Every shape but a write of HI or LO keeps both. -/
theorem Effect.hiLo_eq {i : Instr} {s t : State} (ht : Effect i s t) (hi : isHiLoWriter i = false) :
    t.hi = s.hi ∧ t.lo = s.lo := by
  cases ht with
  | stops => exact ⟨rfl, rfl⟩
  | computes _ u hu | accesses _ u hu | links _ _ _ _ u hu | transfers _ _ _ u hu | readsHi _ _ u hu
  | readsLo _ _ u hu => exact hu.hiLo_eq
  | stores => simp
  | conditional _ m hm b u hu =>
    obtain ⟨mhi, mlo, -⟩ := accessed_or_stored hm
    exact ⟨hu.hiLo_eq.1.trans mhi, hu.hiLo_eq.2.trans mlo⟩
  | writesHiLo hw => rw [hi] at hw; cases hw

/-- The ten instructions by name. -/
theorem isHiLoWriter_cases {i : Instr} (h : isHiLoWriter i = true) :
    ∃ rs rt, i = .mult rs rt ∨ i = .multu rs rt ∨ i = .div rs rt ∨ i = .divu rs rt ∨ i = .dmult rs rt ∨
      i = .dmultu rs rt ∨ i = .ddiv rs rt ∨ i = .ddivu rs rt ∨ i = .mthi rs ∨ i = .mtlo rs := by
  cases i with
  | mult rs rt | multu rs rt | div rs rt | divu rs rt | dmult rs rt | dmultu rs rt | ddiv rs rt | ddivu rs rt =>
    exact ⟨rs, rt, by simp⟩
  | mthi rs | mtlo rs => exact ⟨rs, 0, by simp⟩
  | _ => cases h

/-- Settles O33, by cases on whether the instruction is a write of HI or LO. -/
theorem onlyTheseWriteHiLo : Obligations.OnlyTheseWriteHiLo := by
  intro i s t h hne
  cases hi : isHiLoWriter i with
  | true => exact isHiLoWriter_cases hi
  | false =>
    obtain ⟨hhi, hlo⟩ := (exec_effect h).hiLo_eq hi
    exact absurd hne (by simp [hhi, hlo])

/-! ### `LLbit` and `LLaddr` (10_state.md R31 to R33) -/

/-- Every shape but a load linked keeps `LLaddr`, and keeps `LLbit` unless it is a store conditional. -/
theorem Effect.link_eq {i : Instr} {s t : State} (ht : Effect i s t) (hi : isLoadLinked i = false) :
    t.llAddr = s.llAddr ∧ (isStoreConditional i = false → t.llBit = s.llBit) := by
  cases ht with
  | stops => exact ⟨rfl, fun _ => rfl⟩
  | computes _ u hu | accesses _ u hu | transfers _ _ _ u hu | readsHi _ _ u hu | readsLo _ _ u hu
  | writesHiLo _ u hu => exact ⟨hu.llAddr_eq, fun _ => hu.llBit_eq⟩
  | stores => simp
  | links hl => rw [hi] at hl; cases hl
  | conditional hc m hm b u hu =>
    obtain ⟨-, -, -, maddr⟩ := accessed_or_stored hm
    exact ⟨hu.llAddr_eq.trans maddr, fun hn => by rw [hn] at hc; cases hc⟩

/-- LL and LLD by name. -/
theorem isLoadLinked_cases {i : Instr} (h : isLoadLinked i = true) :
    ∃ rt offset base, i = .ll rt offset base ∨ i = .lld rt offset base := by
  cases i with
  | ll rt offset base | lld rt offset base => exact ⟨rt, offset, base, by simp⟩
  | _ => cases h

/-- SC and SCD by name. -/
theorem isStoreConditional_cases {i : Instr} (h : isStoreConditional i = true) :
    ∃ rt offset base, i = .sc rt offset base ∨ i = .scd rt offset base := by
  cases i with
  | sc rt offset base | scd rt offset base => exact ⟨rt, offset, base, by simp⟩
  | _ => cases h

/-- Settles O50, by cases on whether the instruction is a load linked or a store conditional. -/
theorem onlyTheseChangeTheLink : Obligations.OnlyTheseChangeTheLink := by
  intro i s t h
  cases hl : isLoadLinked i with
  | true =>
    obtain ⟨rt, offset, base, hi⟩ := isLoadLinked_cases hl
    exact ⟨fun _ => ⟨rt, offset, base, hi.imp_right .inl⟩, fun _ => ⟨rt, offset, base, hi⟩⟩
  | false =>
    obtain ⟨addr, bit⟩ := (exec_effect h).link_eq hl
    refine ⟨fun hne => ?_, fun hne => absurd addr hne⟩
    cases hc : isStoreConditional i with
    | true =>
      obtain ⟨rt, offset, base, hi⟩ := isStoreConditional_cases hc
      exact ⟨rt, offset, base, .inr (.inr hi)⟩
    | false => exact absurd (bit hc) hne

/-! ### The line of control (10_state.md R25, R26) -/

/-- The end of an instruction in a straight line. -/
theorem continues_retire {s u : State} (h : u.npc = s.npc) : Continues s (u.retire .next) :=
  ⟨h, congrArg (· + 4) h, rfl⟩

/-- Every shape but a stop and a jump or branch goes on in a straight line. -/
theorem Effect.continues {i : Instr} {s t : State} (ht : Effect i s t) (hi : isBranch i = false) (hx : t.exc = none) :
    Continues s t := by
  cases ht with
  | stops => cases hx
  | computes _ u hu | accesses _ u hu | links _ _ _ _ u hu | writesHiLo _ u hu => exact continues_retire hu.npc_eq
  | readsHi _ _ u hu | readsLo _ _ u hu => exact continues_retire (u := u.hiLoRead) hu.npc_eq
  | stores => exact continues_retire (by simp)
  | conditional _ m hm b u hu =>
    obtain ⟨-, -, mnpc, -⟩ := accessed_or_stored hm
    exact continues_retire (hu.npc_eq.trans mnpc)
  | transfers hb => rw [hi] at hb; cases hb

/-- The twenty jumps and branches by name. -/
theorem isBranch_cases {i : Instr} (h : isBranch i = true) :
    ∃ x rd rs rt o, i = .j x ∨ i = .jal x ∨ i = .jr rs ∨ i = .jalr rd rs ∨ i = .beq rs rt o ∨ i = .bne rs rt o ∨
      i = .blez rs o ∨ i = .bgtz rs o ∨ i = .beql rs rt o ∨ i = .bnel rs rt o ∨ i = .blezl rs o ∨ i = .bgtzl rs o ∨
      i = .bltz rs o ∨ i = .bgez rs o ∨ i = .bltzl rs o ∨ i = .bgezl rs o ∨ i = .bltzal rs o ∨ i = .bgezal rs o ∨
      i = .bltzall rs o ∨ i = .bgezall rs o := by
  cases i with
  | j x | jal x => exact ⟨x, 0, 0, 0, 0, by simp⟩
  | jr rs => exact ⟨0, 0, rs, 0, 0, by simp⟩
  | jalr rd rs => exact ⟨0, rd, rs, 0, 0, by simp⟩
  | beq rs rt o | bne rs rt o | beql rs rt o | bnel rs rt o => exact ⟨0, 0, rs, rt, o, by simp⟩
  | blez rs o | bgtz rs o | blezl rs o | bgtzl rs o | bltz rs o | bgez rs o | bltzl rs o | bgezl rs o | bltzal rs o
  | bgezal rs o | bltzall rs o | bgezall rs o => exact ⟨0, 0, rs, 0, o, by simp⟩
  | _ => cases h

/-- Settles O56, by cases on whether the instruction is a jump or branch. -/
theorem onlyBranchesTransferControl : Obligations.OnlyBranchesTransferControl := by
  intro i s t h _ hx hn
  cases hb : isBranch i with
  | true => exact isBranch_cases hb
  | false => exact absurd ((exec_effect h).continues hb hx) hn

end Sys2Proof.Machine

/-! Memory (20_memory.md): what a step fetches and runs (O4, O5, O7), the aligned loads (O35), what an access raises (O37,
O38), loads after stores (O43, O44), and which instructions change memory (O45). -/

namespace Sys2Proof

/-! ### The decoder on encoded instructions (30_encoding.md R75, R89) -/

/-- The cell of an encoded instruction is its own, in the mode whose map holds it. The cases follow the formats and the
classes: the selecting fields of the word are literals, so the lookup evaluates, and the operands are the fields read back. -/
theorem decodeCell_encode {m : ISAMode} {i : Instr} (h : i.inMap m = true) : decodeCell m (encode i) = i := by
  cases i with
  | sync => rfl
  | jr | jalr | sll | srl | sra | sllv | srlv | srav | dsllv | dsrlv | dsrav | dsll | dsrl | dsra | dsll32
  | dsrl32 | dsra32 | movz | movn | add | addu | sub | subu | and_ | or_ | xor_ | nor | slt | sltu | dadd | daddu
  | dsub | dsubu | mfhi | mthi | mflo | mtlo | mult | multu | div | divu | dmult | dmultu | ddiv | ddivu =>
    rw [encode, decodeCell_special _ (opcodeF_rType ..), decodeSpecial, functionF_rType]
    conv_lhs => whnf
    simp only [rdF_rType, rsF_rType, rtF_rType, saF_rType]
  | tge | tgeu | tlt | tltu | teq | tne =>
    rw [encode, decodeCell_special _ (opcodeF_trapType ..), decodeSpecial, functionF_trapType]
    conv_lhs => whnf
    simp only [rsF_trapType, rtF_trapType, code10F_trapType]
  | syscall | break_ | movci | reservedSpecial000101 | reservedSpecial001110 | reservedSpecial010101
  | reservedSpecial101000 | reservedSpecial101001 | reservedSpecial110101 | reservedSpecial110111
  | reservedSpecial111001 | reservedSpecial111101 =>
    rw [encode, decodeCell_special _ (opcodeF_codeType ..), decodeSpecial, functionF_codeType]
    conv_lhs => whnf
    rw [code20F_codeType]
  | bltz | bgez | bltzl | bgezl | bltzal | bgezal | bltzall | bgezall | tgei | tgeiu | tlti | tltiu | teqi | tnei
  | reservedRegimm00100 | reservedRegimm00101 | reservedRegimm00110 | reservedRegimm00111 | reservedRegimm01101
  | reservedRegimm01111 | reservedRegimm10100 | reservedRegimm10101 | reservedRegimm10110 | reservedRegimm10111
  | reservedRegimm11000 | reservedRegimm11001 | reservedRegimm11010 | reservedRegimm11011 | reservedRegimm11100
  | reservedRegimm11101 | reservedRegimm11110 | reservedRegimm11111 =>
    rw [encode, decodeCell_regimm _ (opcodeF_iType 1 ..), decodeRegimm, rtF_iType]
    conv_lhs => whnf
    rw [rsF_iType, immF_iType]
  | j | jal | cop0 | cop1 | cop2 | reservedOp011100 | reservedOp011101 | reservedOp011110 | reservedOp011111 =>
    rw [encode, decodeCell, opcodeF_jType]
    conv_lhs => whnf
    rw [indexF_jType]
  | cop1x | reservedOp111011 | cop3 =>
    rw [encode, decodeCell, opcodeF_jType]
    cases m <;> cases h <;> (conv_lhs => whnf) <;> rw [indexF_jType]
  | pref | ld | sd | lwc3 | swc3 | ldc3 | sdc3 =>
    rw [encode, decodeCell, opcodeF_iType]
    cases m <;> cases h <;> (conv_lhs => whnf) <;> rw [rtF_iType, immF_iType, rsF_iType]
  | _ =>
    rw [encode, decodeCell, opcodeF_iType]
    conv_lhs => whnf
    simp only [rsF_iType, rtF_iType, immF_iType]

/-- An instruction of the mode's map is not refused: its must-be-zero fields are zero (R79). -/
theorem decode_encode {c : Config} {i : Instr} (h : i.inMap c.isaMode = true) : decode c (encode i) = .ok i := by
  simp [decode, decodeCell_encode h, encode_mustBeZero]

end Sys2Proof

namespace Sys2Proof.Machine

/-! ### One step (20_memory.md R43, R58) -/

/-- Settles O4: a step whose fetch succeeds runs the instruction decoded. -/
theorem stepRunsFetchedInstruction : Obligations.StepRunsFetchedInstruction := by
  intro s i hx ha hf hs hd
  rw [step_fetched hx ha hf hs, hd]

/-- Some byte at `pc` has been stored to. -/
theorem State.fetchStored_eq_true {s : State} (h : ∃ k, k < 4 ∧ (s.pc + BitVec.ofNat 64 k).toNat ∈ s.stored) :
    s.fetchStored = true := by
  obtain ⟨k, hk, hs⟩ := h
  exact List.any_eq_true.mpr ⟨_, (s.mem_fetchAddrs _).mpr ⟨k, hk, rfl⟩, decide_eq_true hs⟩

/-- Settles O7: the first refusal stands before the decoder, the second is the decoder's own. -/
theorem stepRefusals : Obligations.StepRefusals := by
  intro s hx ha hf
  refine ⟨fun hs => ?_, fun i hs hd => ?_⟩
  · rw [step, fetchAndRun, hx, (aligned_iff _ _).mpr ha, accessFault_fetch hf, State.fetchStored_eq_true hs]
    rfl
  · rw [step_fetched hx ha hf hs, hd]

/-! ### A word placed at `pc` (20_memory.md R43; log entry 16) -/

/-- Placing the whole word of a number places the word. -/
theorem State.withFetchWord_toNat (s : State) (w : Word) : s.withFetchWord 32 w.toNat = s.placeWord w := by
  rw [State.withFetchWord, Nat.mod_eq_of_lt w.isLt, BitVec.ofNat_toNat, BitVec.setWidth_eq]

/-- The four addresses of a fetch differ from one another. -/
theorem State.fetchAddrs_nodup (s : State) : s.fetchAddrs.Nodup := by
  have h : s.fetchAddrs = (List.range 4).map fun k => s.pc + BitVec.ofNat 64 k := by
    simp [State.fetchAddrs, List.range_succ]
  rw [h]
  refine List.Nodup.map_on (fun i hi j hj hij => ?_) List.nodup_range
  exact place_inj s.pc (by have := List.mem_range.mp hi; omega) (by have := List.mem_range.mp hj; omega) hij

/-- A word is four bytes in either byte order. -/
theorem bytesOfWord_length (be : Bool) (w : Word) : (bytesOfWord be w).length = 4 := by
  cases be <;> rfl

/-- The bytes of a word are placed at the addresses of the fetch. -/
theorem State.placedBytes_addrs (s : State) (w : Word) :
    (s.fetchAddrs.zip (bytesOfWord s.config.bigEndian w)).map Prod.fst = s.fetchAddrs :=
  List.map_fst_zip (by rw [bytesOfWord_length]; exact le_refl 4)

/-- Placing a word changes memory and the list of addresses stored to alone. -/
theorem State.placeWord_eq (s : State) (w : Word) :
    s.placeWord w = { s with mem := (s.placeWord w).mem, stored := (s.placeWord w).stored } := State.place_eq _ s

@[simp] theorem State.placeWord_pc (s : State) (w : Word) : (s.placeWord w).pc = s.pc := by rw [State.placeWord_eq]

@[simp] theorem State.placeWord_exc (s : State) (w : Word) : (s.placeWord w).exc = s.exc := by rw [State.placeWord_eq]

@[simp] theorem State.placeWord_config (s : State) (w : Word) : (s.placeWord w).config = s.config := by
  rw [State.placeWord_eq]

/-- A byte outside the word placed is unchanged. -/
theorem State.placeWord_byteAt_other (s : State) (w : Word) {b : Addr} (hb : ¬WholeItem s.pc 4 b) :
    (s.placeWord w).byteAt b = s.byteAt b := by
  refine State.place_byteAt_other _ s fun p hp he => hb ?_
  rw [he, ← State.mem_fetchAddrs]
  exact (List.of_mem_zip hp).1

/-- The bytes of the word placed are no longer bytes the run has stored; the others are as before. -/
theorem State.placeWord_stored (s : State) (w : Word) (b : Addr) :
    b.toNat ∈ (s.placeWord w).stored ↔ b.toNat ∈ s.stored ∧ ¬WholeItem s.pc 4 b := by
  rw [State.placeWord, State.place_stored, ← State.mem_fetchAddrs]
  refine and_congr_right fun _ => ⟨fun h hb => ?_, fun hb p hp he => hb ?_⟩
  · rw [← s.placedBytes_addrs w] at hb
    obtain ⟨p, hp, rfl⟩ := List.mem_map.mp hb
    exact h p hp rfl
  · rw [BitVec.eq_of_toNat_eq he]
    exact (List.of_mem_zip hp).1

/-- The word placed reads back at `pc`, in the byte order of the machine. -/
theorem State.placeWord_memValue (s : State) (w : Word) :
    BitVec.ofNat 32 (memValue (s.placeWord w) s.pc 4) = w := by
  obtain ⟨b0, b1, b2, b3, hbytes, hw⟩ := wordOfBytes_bytesOfWord s.config.bigEndian w
  have hdiff : (s.fetchAddrs.zip (bytesOfWord s.config.bigEndian w)).Pairwise fun p q => p.1 ≠ q.1 :=
    List.pairwise_map.mp (by rw [s.placedBytes_addrs w]; exact s.fetchAddrs_nodup)
  have hread := fun p => State.place_byteAt_mem _ s hdiff (p := p)
  rw [← State.placeWord, hbytes] at hread
  obtain ⟨h0, h1, h2, h3⟩ : (s.placeWord w).byteAt s.pc = b0 ∧ (s.placeWord w).byteAt (s.pc + 1) = b1 ∧
      (s.placeWord w).byteAt (s.pc + 2) = b2 ∧ (s.placeWord w).byteAt (s.pc + 3) = b3 := by
    simpa [State.fetchAddrs] using hread
  have hword := wordOfBytes_memValue (s.placeWord w)
  rw [State.placeWord_pc, State.placeWord_config, h0, h1, h2, h3, hw] at hword
  exact hword.symm

/-- Settles O5: the four bytes placed read back as the encoded word, which the decoder answers with the instruction. -/
theorem placedInstructionRuns : Obligations.PlacedInstructionRuns := by
  intro s i hx ha hf hm
  refine ⟨s.placeWord (encode i), (s.withFetchWord_toNat _).symm, ?_, s.placeWord_eq _, fun b hb => ⟨?_, ?_⟩⟩
  · refine stepRunsFetchedInstruction _ i (by simpa using hx) (by simpa using ha) (by simpa using hf)
      (fun k hk => ?_) ?_
    · rw [State.placeWord_stored, State.placeWord_pc]
      exact fun h => h.2 ⟨k, hk, rfl⟩
    · rw [State.placeWord_config, State.placeWord_pc, State.placeWord_memValue, decode_encode hm]
  · exact s.placeWord_byteAt_other _ hb
  · rw [State.placeWord_stored]
    exact and_iff_left hb

/-! ### Items of one byte -/

/-- Every address is a multiple of 1, so a load of one byte is an aligned load. -/
theorem loadAligned_one (s : State) (rt : RegIdx) (ea : Addr) (post : DWord → DWord) :
    loadAligned s 1 rt ea post = loadLane s rt ea (Lane.whole ea 1) post :=
  if_pos ((aligned_iff ea 1).mpr (Nat.mod_one _))

/-- A store of one byte is an aligned store. -/
theorem storeAligned_one (s : State) (ea : Addr) (v : DWord) :
    storeAligned s 1 ea v = storeLane s ea (Lane.whole ea 1) v :=
  if_pos ((aligned_iff ea 1).mpr (Nat.mod_one _))

/-- `MemRead` of one byte is the byte. -/
theorem memValue_one (s : State) (a : Addr) : memValue s a 1 = (s.byteAt a).toNat := by
  simp [memValue, byteRank]

/-- One byte of an item that may be accessed may be accessed. -/
theorem Allowed.byte {c : Config} {kind : AccessKind} {a : Addr} {n k : Nat} (h : Allowed c kind a n) (hk : k < n) :
    Allowed c kind (a + BitVec.ofNat 64 k) 1 := by
  intro i hi
  rw [add_ofNat_add]
  exact h (k + i) (by omega)

/-! ### The aligned loads (42_load_store.md R165 to R171) -/

/-- Where 64-bit operations execute, an instruction of level III does as its rule says. -/
theorem exec_level_III {i : Instr} {s : State} {k : Result} (h : Has64 s.config) (hi : exec i s = atLevel .III s k) :
    exec i s = k := hi.trans (atLevel_eq (reserves_III h) k)

/-- Settles O35: each load is a load of an aligned item, extended by its own rule. -/
theorem alignedLoads : Obligations.AlignedLoads := by
  intro s rt base offset ea may zext
  have low {n m : Nat} (hn : n ≤ 8) (hm : m ≤ 64) := setWidth_readLane s ea hn hm
  have all {n : Nat} (hn : n ≤ 8) := readLane_whole_eq s ea hn
  refine ⟨fun ⟨ha, hf⟩ => ⟨?lb, ?lbu⟩, fun ⟨ha, hf⟩ => ⟨?lh, ?lhu⟩, fun ⟨ha, hf⟩ => ⟨?lw, fun h64 => ?lwu⟩,
    fun ⟨ha, hf⟩ h64 => ?ld⟩
  case lb =>
    exact writes_of_loadAligned (loadAligned_one ..).symm ha hf
      (congrArg (BitVec.signExtend 64) (low (by decide) (by decide)))
  case lbu => exact writes_of_loadAligned (loadAligned_one ..).symm ha hf (all (by decide))
  case lh | lw =>
    exact writes_of_loadAligned rfl ha hf (congrArg (BitVec.signExtend 64) (low (by decide) (by decide)))
  case lhu => exact writes_of_loadAligned rfl ha hf (all (by decide))
  case lwu | ld => exact writes_of_loadAligned (exec_level_III h64 rfl) ha hf (all (by decide))

/-! ### What an access raises (20_memory.md R45, R49) -/

section
variable {i : Instr} {s : State} {rt : RegIdx} {ea : Addr} {n : Nat} {w : LinkWidth} {l : Lane} {v : DWord}
  {post : DWord → DWord} {e : Exception} {moved : Addr → Prop}

/-- A misaligned load. -/
theorem raises_of_loadAligned_misaligned (h : exec i s = loadAligned s n rt ea post) (ha : ea.toNat % n ≠ 0) :
    Raises i s (.addressErrorLoad ea) := by
  rw [loadAligned, (aligned_eq_false _ _).mpr ha] at h
  exact raises_of_raise h

/-- A misaligned store. -/
theorem raises_of_storeAligned_misaligned (h : exec i s = storeAligned s n ea v) (ha : ea.toNat % n ≠ 0) :
    Raises i s (.addressErrorStore ea) := by
  rw [storeAligned, (aligned_eq_false _ _).mpr ha] at h
  exact raises_of_raise h

/-- A misaligned load linked. -/
theorem raises_of_loadLinked_misaligned (h : exec i s = loadLinked s w rt ea post) (ha : ea.toNat % linkBytes w ≠ 0) :
    Raises i s (.addressErrorLoad ea) := by
  rw [loadLinked, (aligned_eq_false _ _).mpr ha] at h
  exact raises_of_raise h

/-- A misaligned store conditional. -/
theorem raises_of_storeConditional_misaligned (h : exec i s = storeConditional s w rt ea)
    (ha : ea.toNat % linkBytes w ≠ 0) : Raises i s (.addressErrorStore ea) := by
  rw [storeConditional, (aligned_eq_false _ _).mpr ha] at h
  exact raises_of_raise h

/-- A load of bytes one of which may not be read. -/
theorem raises_of_loadLane_denied (h : exec i s = loadLane s rt ea l post)
    (hm : ∀ a, a ∈ l.addrs s.config.bigEndian ↔ moved a) (hd : Denied s.config .load moved ea e) : Raises i s e := by
  rw [loadLane, accessFault_denied hm hd] at h
  exact raises_of_raise h

/-- A store of bytes one of which may not be written. -/
theorem raises_of_storeLane_denied (h : exec i s = storeLane s ea l v)
    (hm : ∀ a, a ∈ l.addrs s.config.bigEndian ↔ moved a) (hd : Denied s.config .store moved ea e) : Raises i s e := by
  rw [storeLane, accessFault_denied hm hd] at h
  exact raises_of_raise h

/-- An aligned load of an item one of whose bytes may not be read. -/
theorem raises_of_loadAligned_denied (h : exec i s = loadAligned s n rt ea post) (ha : ea.toNat % n = 0)
    (hd : Denied s.config .load (WholeItem ea n) ea e) : Raises i s e := by
  rw [loadAligned, (aligned_iff _ _).mpr ha] at h
  exact raises_of_loadLane_denied h (Lane.mem_whole_addrs _ _ _) hd

/-- An aligned store of an item one of whose bytes may not be written. -/
theorem raises_of_storeAligned_denied (h : exec i s = storeAligned s n ea v) (ha : ea.toNat % n = 0)
    (hd : Denied s.config .store (WholeItem ea n) ea e) : Raises i s e := by
  rw [storeAligned, (aligned_iff _ _).mpr ha] at h
  exact raises_of_storeLane_denied h (Lane.mem_whole_addrs _ _ _) hd

/-- A load linked of an item one of whose bytes may not be read. -/
theorem raises_of_loadLinked_denied (h : exec i s = loadLinked s w rt ea post) (ha : ea.toNat % linkBytes w = 0)
    (hd : Denied s.config .load (WholeItem ea (linkBytes w)) ea e) : Raises i s e := by
  rw [loadLinked, (aligned_iff _ _).mpr ha, accessFault_denied (Lane.mem_whole_addrs _ _ _) hd] at h
  exact raises_of_raise h

/-- A store conditional to an item one of whose bytes may not be written, whether or not it would store. -/
theorem raises_of_storeConditional_denied (h : exec i s = storeConditional s w rt ea) (ha : ea.toNat % linkBytes w = 0)
    (hd : Denied s.config .store (WholeItem ea (linkBytes w)) ea e) : Raises i s e := by
  rw [storeConditional, (aligned_iff _ _).mpr ha, accessFault_denied (Lane.mem_whole_addrs _ _ _) hd] at h
  exact raises_of_raise h

end

/-- Settles O37: each access tests its alignment first. -/
theorem misalignedAccessesRaise : Obligations.MisalignedAccessesRaise := by
  intro s rt base offset ea
  refine ⟨fun ha => ⟨?lh, ?lhu, ?sh⟩, fun ha => ⟨?lw, ?ll, ?sw, ?sc, fun h64 => ?lwu⟩,
    fun ha h64 => ⟨?ld, ?lld, ?sd, ?scd⟩⟩
  case lh | lhu | lw => exact raises_of_loadAligned_misaligned rfl ha
  case lwu | ld => exact raises_of_loadAligned_misaligned (exec_level_III h64 rfl) ha
  case sh | sw => exact raises_of_storeAligned_misaligned rfl ha
  case sd => exact raises_of_storeAligned_misaligned (exec_level_III h64 rfl) ha
  case ll => exact raises_of_loadLinked_misaligned (w := .word) rfl ha
  case lld => exact raises_of_loadLinked_misaligned (w := .doubleword) (exec_level_III h64 rfl) ha
  case sc => exact raises_of_storeConditional_misaligned (w := .word) rfl ha
  case scd => exact raises_of_storeConditional_misaligned (w := .doubleword) (exec_level_III h64 rfl) ha

/-- Settles O38: each access asks the address map about the bytes it moves, those of its item or of its part of one. -/
theorem deniedAccessesRaise : Obligations.DeniedAccessesRaise := by
  intro s rt base offset e c ea loads stores parts
  have left {n : Nat} (hn : 0 < n) := mem_left_addrs c ea hn
  have right {n : Nat} (hn : 0 < n) := mem_right_addrs c ea hn
  refine ⟨?lb, ?lbu, ?lh, ?lhu, ?lw, ?ll, ?sb, ?sh, ?sw, ?sc, ?lwl, ?lwr, ?swl, ?swr, fun h64 =>
    ⟨?lwu, ?ld, ?lld, ?sd, ?scd, ?ldl, ?ldr, ?sdl, ?sdr⟩⟩
  case lb | lbu => exact raises_of_loadAligned_denied (loadAligned_one ..).symm
  case lh | lhu | lw => exact raises_of_loadAligned_denied rfl
  case lwu | ld => exact raises_of_loadAligned_denied (exec_level_III h64 rfl)
  case sb => exact raises_of_storeAligned_denied (storeAligned_one ..).symm
  case sh | sw => exact raises_of_storeAligned_denied rfl
  case sd => exact raises_of_storeAligned_denied (exec_level_III h64 rfl)
  case ll => exact raises_of_loadLinked_denied (w := .word) rfl
  case lld => exact raises_of_loadLinked_denied (w := .doubleword) (exec_level_III h64 rfl)
  case sc => exact raises_of_storeConditional_denied (w := .word) rfl
  case scd => exact raises_of_storeConditional_denied (w := .doubleword) (exec_level_III h64 rfl)
  case lwl => exact raises_of_loadLane_denied rfl (left (by decide))
  case lwr => exact raises_of_loadLane_denied rfl (right (by decide))
  case ldl => exact raises_of_loadLane_denied (exec_level_III h64 rfl) (left (by decide))
  case ldr => exact raises_of_loadLane_denied (exec_level_III h64 rfl) (right (by decide))
  case swl => exact raises_of_storeLane_denied rfl (left (by decide))
  case swr => exact raises_of_storeLane_denied rfl (right (by decide))
  case sdl => exact raises_of_storeLane_denied (exec_level_III h64 rfl) (left (by decide))
  case sdr => exact raises_of_storeLane_denied (exec_level_III h64 rfl) (right (by decide))

/-! ### Loads after stores (20_memory.md R42, R44, R55 (a)) -/

/-- A store leaves the effective addresses alone. -/
theorem effectiveAddr_congr {s t : State} (h : SameRegs s t []) (offset : BitVec 16) (base : RegIdx) :
    effectiveAddr t offset base = effectiveAddr s offset base := by
  rw [effectiveAddr, h base (by simp), effectiveAddr]

/-- An aligned load of the item stored gives the low-order bytes of the value stored, as the load extends them. -/
theorem Stores.then_load {i j : Instr} {s : State} {rd base : RegIdx} {offset : BitVec 16} {n : Nat} {v x : DWord}
    {post : DWord → DWord} (hi : Stores i s (effectiveAddr s offset base) n v) (hn : n ≤ 8)
    (ha : (effectiveAddr s offset base).toNat % n = 0) (hf : Allowed s.config .load (effectiveAddr s offset base) n)
    (hj : ∀ t : State, t.config = s.config → exec j t = loadAligned t n rd (effectiveAddr t offset base) post)
    (hx : post (BitVec.ofNat 64 (v.toNat % 256 ^ n)) = x) : ∃ t, exec i s = .next t ∧ Writes j t rd x := by
  obtain ⟨t, ht, hbytes, -, -, hregs, -, -, ⟨-, hc⟩, -⟩ := hi
  have hea := effectiveAddr_congr hregs offset base
  refine ⟨t, ht, writes_of_loadAligned ((hj t hc).trans (by rw [hea])) ha (hc ▸ hf) ?_⟩
  rw [readLane_whole_eq t _ hn, memValue_of_bytes hc hbytes, hx]

/-- The low-order bytes of a value, as bits. -/
theorem setWidth_low_bytes (v : DWord) {n : Nat} (hn : n ≤ 8) :
    (BitVec.ofNat 64 (v.toNat % 256 ^ n)).setWidth (8 * n) = v.setWidth (8 * n) := by
  apply BitVec.eq_of_toNat_eq
  rw [BitVec.toNat_setWidth, BitVec.toNat_setWidth, BitVec.toNat_ofNat,
    Nat.mod_mod_of_dvd _ (Nat.pow_dvd_pow 2 (by omega)), show 256 ^ n = 2 ^ (8 * n) by rw [Nat.pow_mul], Nat.mod_mod]

/-- Settles O43: each load reads the bytes of its item that the store has left. -/
theorem loadAfterStore : Obligations.LoadAfterStore := by
  intro s rt rd base offset ea v may gives
  have low {n : Nat} (hn : n ≤ 8) := setWidth_low_bytes v hn
  refine ⟨fun ⟨ha, hs, hl⟩ => ?_, fun ⟨ha, hs, hl⟩ => ?_, fun ⟨ha, hs, hl⟩ => ?_, fun ⟨ha, hs, hl⟩ h64 => ?_⟩
  · exact Stores.then_load (stores_of_storeAligned (storeAligned_one ..).symm ha (by decide) hs) (by decide) ha hl
      (fun _ _ => (loadAligned_one ..).symm) (congrArg (BitVec.signExtend 64) (low (n := 1) (by decide)))
  · exact Stores.then_load (stores_of_storeAligned rfl ha (by decide) hs) (by decide) ha hl (fun _ _ => rfl) rfl
  · exact Stores.then_load (stores_of_storeAligned rfl ha (by decide) hs) (by decide) ha hl (fun _ _ => rfl)
      (congrArg (BitVec.signExtend 64) (low (n := 4) (by decide)))
  · have whole : BitVec.ofNat 64 (v.toNat % 256 ^ 8) = v := by simpa using low (n := 8) (by decide)
    exact Stores.then_load (stores_of_storeAligned (exec_level_III h64 rfl) ha (by decide) hs) (by decide) ha hl
      (fun _ hc => exec_level_III (hc ▸ h64) rfl) whole

/-- Settles O44: the byte at place `k` of the word stored is the one that the load reads. -/
theorem byteOfStoredWord : Obligations.ByteOfStoredWord := by
  intro s rt rd base offset near k hk ea hnear ha hs hl
  obtain ⟨t, ht, hbytes, -, -, hregs, -, -, ⟨-, hc⟩, -⟩ : Stores (.sw rt offset base) s ea 4 (s.reg rt) :=
    stores_of_storeAligned rfl ha (by decide) hs
  have hea : effectiveAddr t near base = ea + BitVec.ofNat 64 k := (effectiveAddr_congr hregs near base).trans hnear
  have hload : exec (.lbu rd near base) t = loadAligned t 1 rd (ea + BitVec.ofNat 64 k) asRead :=
    hea ▸ (loadAligned_one ..).symm
  refine ⟨t, ht, writes_of_loadAligned hload (Nat.mod_one _) (hc ▸ hl.byte hk) ?_⟩
  rw [asRead, readLane_whole_eq t _ (by decide), memValue_one, hbytes k hk, BitVec.toNat_ofNat]

/-! ### What changes memory (20_memory.md R47) -/

theorem RegsOnly.mem_eq {w : RegIdx → Prop} {s u : State} (h : RegsOnly w s u) : u.mem = s.mem ∧ u.stored = s.stored := by
  rw [h.eq]
  exact ⟨rfl, rfl⟩

/-- Every shape but a store and a store conditional keeps memory and the list of addresses stored to. -/
theorem Effect.mem_eq {i : Instr} {s t : State} (ht : Effect i s t)
    (hi : ¬(isStore i = true ∨ isStoreConditional i = true)) : t.mem = s.mem ∧ t.stored = s.stored := by
  cases ht with
  | stops => exact ⟨rfl, rfl⟩
  | computes _ u hu | accesses _ u hu | links _ _ _ _ u hu | transfers _ _ _ u hu | readsHi _ _ u hu
  | readsLo _ _ u hu | writesHiLo _ u hu => exact hu.mem_eq
  | stores hs => exact absurd (.inl hs) hi
  | conditional hc => exact absurd (.inr hc) hi

/-- The eight stores and the two store conditionals by name. -/
theorem storing_cases {i : Instr} (h : isStore i = true ∨ isStoreConditional i = true) :
    ∃ rt offset base, i = .sb rt offset base ∨ i = .sh rt offset base ∨ i = .sw rt offset base ∨
      i = .sd rt offset base ∨ i = .swl rt offset base ∨ i = .swr rt offset base ∨ i = .sdl rt offset base ∨
      i = .sdr rt offset base ∨ i = .sc rt offset base ∨ i = .scd rt offset base := by
  cases i with
  | sb rt offset base | sh rt offset base | sw rt offset base | sd rt offset base | swl rt offset base
  | swr rt offset base | sdl rt offset base | sdr rt offset base | sc rt offset base | scd rt offset base =>
    exact ⟨rt, offset, base, by simp⟩
  | _ => rcases h with h | h <;> cases h

/-- Settles O45, by cases on whether the instruction is a store or a store conditional. -/
theorem onlyStoresChangeMemory : Obligations.OnlyStoresChangeMemory := by
  intro i s t h hne
  by_cases hi : isStore i = true ∨ isStoreConditional i = true
  · exact storing_cases hi
  · obtain ⟨mem, stored⟩ := (exec_effect h).mem_eq hi
    exact absurd hne (by simp [mem, stored])

end Sys2Proof.Machine

/-! Encoding (30_encoding.md): the round trips (O1, O2), the spec's examples (O3), and the encodings that raise Reserved
Instruction: the reserved cells (O9) and the instructions of a level that is reserved (O14). -/

namespace Sys2Proof

/-! ### The cell of a word is in the map of the mode (30_encoding.md R75, R89) -/

theorem decodeSpecial_inMap (m : ISAMode) (w : Word) : (decodeSpecial w).inMap m = true := by
  unfold decodeSpecial
  split <;> rfl

theorem decodeRegimm_inMap (m : ISAMode) (w : Word) : (decodeRegimm w).inMap m = true := by
  unfold decodeRegimm
  split <;> rfl

/-- Each of the five cells that depend on the mode is in the map of the mode that selects it. -/
theorem decodeCell_inMap (m : ISAMode) (w : Word) : (decodeCell m w).inMap m = true := by
  unfold decodeCell
  split
  · exact decodeSpecial_inMap m w
  · exact decodeRegimm_inMap m w
  all_goals cases m <;> rfl

/-! ### A word is the word of its format with the selecting field of its cell (R71 to R73, R78) -/

section
variable {w : Word} {o f : BitVec 6}

theorem iType_of_opcode (h : opcodeF w = o) : iType o (rsF w) (rtF w) (immF w) = w := h ▸ iType_fields w

theorem jType_of_opcode (h : opcodeF w = o) : jType o (indexF w) = w := h ▸ jType_fields w

theorem rType_of_function (h : opcodeF w = 0) (hf : functionF w = f) :
    rType (rsF w) (rtF w) (rdF w) (saF w) f = w := hf ▸ rType_fields w h

theorem trapType_of_function (h : opcodeF w = 0) (hf : functionF w = f) :
    trapType (rsF w) (rtF w) (code10F w) f = w := hf ▸ trapType_fields w h

theorem codeType_of_function (h : opcodeF w = 0) (hf : functionF w = f) :
    codeType (code20F w) f = w := hf ▸ codeType_fields w h

end

/-- A field that a mask covers is zero in a word that has only zeros under the mask. -/
theorem field_eq_zero {w mask : Word} {lo len : Nat} (h : w &&& mask = 0)
    (hm : mask.extractLsb' lo len = BitVec.allOnes len) : w.extractLsb' lo len = 0 := by
  have hf := congrArg (BitVec.extractLsb' lo len) h
  rwa [BitVec.extractLsb'_and, hm, BitVec.and_allOnes, show (0 : Word) = 0#32 from rfl, BitVec.extractLsb'_zero] at hf

/-! ### The cells by format and must-be-zero fields (R79, R81) -/

/-- The functions of SPECIAL with 20 bits in 25:6: SYSCALL, BREAK, MOVCI and the reserved cells. -/
def codeFunctions : List (BitVec 6) :=
  [0b000001, 0b000101, 0b001100, 0b001101, 0b001110, 0b010101, 0b101000, 0b101001, 0b110101, 0b110111, 0b111001,
    0b111101]

/-- The traps. -/
def trapFunctions : List (BitVec 6) := [0b110000, 0b110001, 0b110010, 0b110011, 0b110100, 0b110110]

/-- The shifts by `sa`: `rs` must be zero. -/
def shiftFunctions : List (BitVec 6) :=
  [0b000000, 0b000010, 0b000011, 0b111000, 0b111010, 0b111011, 0b111100, 0b111110, 0b111111]

/-- The instructions with three registers: `sa` must be zero. -/
def threeRegisterFunctions : List (BitVec 6) :=
  [0b000100, 0b000110, 0b000111, 0b010100, 0b010110, 0b010111, 0b001010, 0b001011, 0b100000, 0b100001, 0b100010,
    0b100011, 0b100100, 0b100101, 0b100110, 0b100111, 0b101010, 0b101011, 0b101100, 0b101101, 0b101110, 0b101111]

/-- The multiplies and divides: `rd` and `sa` must be zero. -/
def mulDivFunctions : List (BitVec 6) :=
  [0b011000, 0b011001, 0b011010, 0b011011, 0b011100, 0b011101, 0b011110, 0b011111]

/-- JR, MTHI and MTLO: all fields but `rs` must be zero. -/
def sourceFunctions : List (BitVec 6) := [0b001000, 0b010001, 0b010011]

/-- MFHI and MFLO: all fields but `rd` must be zero. -/
def destinationFunctions : List (BitVec 6) := [0b010000, 0b010010]

/-- The map of SPECIAL: the groups above, JALR and SYNC. -/
theorem function_cases (f : BitVec 6) :
    f ∈ codeFunctions ∨ f ∈ trapFunctions ∨ f ∈ shiftFunctions ∨ f ∈ threeRegisterFunctions ∨ f ∈ mulDivFunctions ∨
      f ∈ sourceFunctions ∨ f ∈ destinationFunctions ∨ f = 0b001001 ∨ f = 0b001111 := by
  revert f; decide

/-- The opcodes of J-type in every mode: the jumps, the coprocessor classes 0 to 2 and the reserved cells. -/
def indexOpcodes : List (BitVec 6) :=
  [0b000010, 0b000011, 0b010000, 0b010001, 0b010010, 0b011100, 0b011101, 0b011110, 0b011111]

/-- The comparisons of `rs` with zero: `rt` must be zero. -/
def zeroBranchOpcodes : List (BitVec 6) := [0b000110, 0b000111, 0b010110, 0b010111]

/-- The opcodes of I-type with both registers, one cell for every mode. -/
def immediateOpcodes : List (BitVec 6) :=
  [0b000100, 0b000101, 0b001000, 0b001001, 0b001010, 0b001011, 0b001100, 0b001101, 0b001110, 0b010100, 0b010101,
    0b011000, 0b011001, 0b011010, 0b011011, 0b100000, 0b100001, 0b100010, 0b100011, 0b100100, 0b100101, 0b100110,
    0b100111, 0b101000, 0b101001, 0b101010, 0b101011, 0b101100, 0b101101, 0b101110, 0b101111, 0b110000, 0b110001,
    0b110010, 0b110100, 0b110101, 0b110110, 0b111000, 0b111001, 0b111010, 0b111100, 0b111101, 0b111110]

/-- The opcodes whose cell depends on the mode, of I-type in each (R86, R89). -/
def modeOpcodes : List (BitVec 6) := [0b110011, 0b110111, 0b111111]

/-- The primary map: SPECIAL, REGIMM, the groups above, LUI, and the other two cells that depend on the mode. -/
theorem opcode_cases (o : BitVec 6) :
    o = 0b000000 ∨ o = 0b000001 ∨ o ∈ indexOpcodes ∨ o ∈ zeroBranchOpcodes ∨ o ∈ immediateOpcodes ∨ o ∈ modeOpcodes ∨
      o = 0b001111 ∨ o = 0b010011 ∨ o = 0b111011 := by
  revert o; decide

/-! ### Encoding the cell of a word (R75, R79) -/

/-- The instruction encodes to the word if the word has zero in the must-be-zero fields of the instruction. -/
def Rebuilds (i : Instr) (w : Word) : Prop := w &&& i.mustBeZero = 0 → encode i = w

/-- A word of the class SPECIAL, by the groups of functions: the fields the instruction does not hold are zero. -/
theorem decodeSpecial_rebuilds {w : Word} (ho : opcodeF w = 0) : Rebuilds (decodeSpecial w) w := by
  obtain ⟨f, hf⟩ : ∃ f, functionF w = f := ⟨_, rfl⟩
  have word := rType_of_function ho hf
  rw [decodeSpecial, hf]
  rcases function_cases f with h | h | h | h | h | h | h | rfl | rfl
  · have code := codeType_of_function ho hf
    fin_cases h <;> exact fun _ => code
  · have trap := trapType_of_function ho hf
    fin_cases h <;> exact fun _ => trap
  · have shift (hz : w &&& 0x03E00000 = 0) : rType 0 (rtF w) (rdF w) (saF w) f = w := by
      have rs : rsF w = 0 := field_eq_zero hz rfl
      rwa [rs] at word
    fin_cases h <;> exact shift
  · have threeRegister (hz : w &&& 0x000007C0 = 0) : rType (rsF w) (rtF w) (rdF w) 0 f = w := by
      have sa : saF w = 0 := field_eq_zero hz rfl
      rwa [sa] at word
    fin_cases h <;> exact threeRegister
  · have mulDiv (hz : w &&& 0x0000FFC0 = 0) : rType (rsF w) (rtF w) 0 0 f = w := by
      have rd : rdF w = 0 := field_eq_zero hz rfl
      have sa : saF w = 0 := field_eq_zero hz rfl
      rwa [rd, sa] at word
    fin_cases h <;> exact mulDiv
  · have source (hz : w &&& 0x001FFFC0 = 0) : rType (rsF w) 0 0 0 f = w := by
      have rt : rtF w = 0 := field_eq_zero hz rfl
      have rd : rdF w = 0 := field_eq_zero hz rfl
      have sa : saF w = 0 := field_eq_zero hz rfl
      rwa [rt, rd, sa] at word
    fin_cases h <;> exact source
  · have destination (hz : w &&& 0x03FF07C0 = 0) : rType 0 0 (rdF w) 0 f = w := by
      have rs : rsF w = 0 := field_eq_zero hz rfl
      have rt : rtF w = 0 := field_eq_zero hz rfl
      have sa : saF w = 0 := field_eq_zero hz rfl
      rwa [rs, rt, sa] at word
    fin_cases h <;> exact destination
  · intro (hz : w &&& 0x001F07C0 = 0)
    have rt : rtF w = 0 := field_eq_zero hz rfl
    have sa : saF w = 0 := field_eq_zero hz rfl
    rwa [rt, sa] at word
  · intro (hz : w &&& 0x03FFFFC0 = 0)
    have rs : rsF w = 0 := field_eq_zero hz rfl
    have rt : rtF w = 0 := field_eq_zero hz rfl
    have rd : rdF w = 0 := field_eq_zero hz rfl
    have sa : saF w = 0 := field_eq_zero hz rfl
    rwa [rs, rt, rd, sa] at word

/-- A word of the class REGIMM has no must-be-zero fields: every value of `rt` selects an I-type cell. -/
theorem decodeRegimm_rebuilds {w : Word} (ho : opcodeF w = 1) : Rebuilds (decodeRegimm w) w := by
  suffices h : ∀ rt, rtF w = rt → encode (decodeRegimm w) = iType 1 (rsF w) rt (immF w) from
    fun _ => (h _ rfl).trans (iType_of_opcode ho)
  rintro ⟨n, hn⟩ hrt
  rw [decodeRegimm, hrt]
  interval_cases n <;> rfl

/-- A word of any class, by the groups of opcodes. -/
theorem decodeCell_rebuilds (m : ISAMode) (w : Word) : Rebuilds (decodeCell m w) w := by
  obtain ⟨o, ho⟩ : ∃ o, opcodeF w = o := ⟨_, rfl⟩
  have word := iType_of_opcode ho
  rcases opcode_cases o with rfl | rfl | h | h | h | h | rfl | rfl | rfl
  · rw [decodeCell_special m ho]
    exact decodeSpecial_rebuilds ho
  · rw [decodeCell_regimm m ho]
    exact decodeRegimm_rebuilds ho
  all_goals rw [decodeCell, ho]
  · fin_cases h <;> exact fun _ => jType_of_opcode ho
  · have zeroBranch (hz : w &&& 0x001F0000 = 0) : iType o (rsF w) 0 (immF w) = w := by
      have rt : rtF w = 0 := field_eq_zero hz rfl
      rwa [rt] at word
    fin_cases h <;> exact zeroBranch
  · fin_cases h <;> exact fun _ => word
  · fin_cases h <;> cases m <;> exact fun _ => word
  · intro (hz : w &&& 0x03E00000 = 0)
    have rs : rsF w = 0 := field_eq_zero hz rfl
    rwa [rs] at word
  · cases m <;> exact fun _ => jType_of_opcode ho
  · cases m with
    | II => exact fun _ => word
    | III | IV => exact fun _ => jType_of_opcode ho

/-! ### The decoder's two answers (R79; 70_reset_and_hazards.md R357) -/

/-- The decoder answers with the cell where the level is reserved or the must-be-zero fields are zero. -/
theorem decode_ok {c : Config} {w : Word}
    (h : reserves c (decodeCell c.isaMode w).level = true ∨ w &&& (decodeCell c.isaMode w).mustBeZero = 0) :
    decode c w = .ok (decodeCell c.isaMode w) := by
  refine if_neg fun ⟨hr, hz⟩ => ?_
  rcases h with h | h
  · rw [h] at hr; cases hr
  · exact hz h

/-- It refuses every other word. -/
theorem decode_error {c : Config} {w : Word} (hr : reserves c (decodeCell c.isaMode w).level = false)
    (hz : w &&& (decodeCell c.isaMode w).mustBeZero ≠ 0) :
    decode c w = .error (.mustBeZeroField (decodeCell c.isaMode w)) :=
  if_pos ⟨hr, hz⟩

/-- A word the decoder refuses encodes no instruction of the map, since it answers every encoded one. -/
theorem encode_ne_of_decode_error {c : Config} {w : Word} {e : DecodeError} (h : decode c w = .error e) {j : Instr}
    (hj : j.inMap c.isaMode = true) : encode j ≠ w := by
  rintro rfl
  rw [decode_encode hj] at h
  cases h

/-! ### The round trips -/

/-- Settles O1: the word decodes to the instruction, and its bytes are read as the word in either byte order. -/
theorem decodeEncode : Obligations.DecodeEncode := by
  intro c i h
  obtain ⟨b0, b1, b2, b3, hbytes, hword⟩ := wordOfBytes_bytesOfWord c.bigEndian (encode i)
  exact ⟨decode_encode h, b0, b1, b2, b3, hbytes, by rw [decodeBytes, hword, decode_encode h]⟩

/-- Settles O2, by the decoder's two tests on the cell of the word. -/
theorem everyWordIsAnswered : Obligations.EveryWordIsAnswered := by
  intro c w
  have hmap := decodeCell_inMap c.isaMode w
  cases hr : reserves c (decodeCell c.isaMode w).level with
  | true => exact .inl ⟨_, decode_ok (.inl hr), hmap, .inl hr⟩
  | false =>
    by_cases hz : w &&& (decodeCell c.isaMode w).mustBeZero = 0
    · exact .inl ⟨_, decode_ok (.inr hz), hmap, .inr (decodeCell_rebuilds c.isaMode w hz)⟩
    · exact .inr ⟨_, decode_error hr hz, fun _ => encode_ne_of_decode_error (decode_error hr hz)⟩

/-! ### The spec's examples (95_test_vectors.md) -/

/-- The table's reading of a whole word is the decoder's, under the default parameters. -/
theorem decodeTableWord_toNat (w : Word) : decodeTableWord 32 w.toNat = (decode Config.default w).toOption := by
  obtain ⟨b0, b1, b2, b3, hbytes, hword⟩ := wordOfBytes_bytesOfWord Config.default.bigEndian w
  rw [decodeTableWord, Nat.mod_eq_of_lt w.isLt, BitVec.ofNat_toNat, BitVec.setWidth_eq]
  simp only [hbytes, decodeBytes, hword]

/-- A word written out reads as the instruction it is the encoding of. -/
theorem decodeTableWord_of_encode {n : Nat} (i : Instr) (hi : i.inMap .IV = true) (hn : (encode i).toNat = n) :
    decodeTableWord 32 n = some i := by
  rw [← hn, decodeTableWord_toNat, decode_encode (c := Config.default) hi]
  rfl

/-- Settles O3: the last word is SYNC with a must-be-zero bit set, and every other the encoding of its instruction. -/
theorem exampleWordsDecode : Obligations.ExampleWordsDecode := by
  have refused : decode Config.default 0x0000004F = .error (.mustBeZeroField .sync) := decode_error rfl (by decide)
  refine ⟨?_, ?_, ?_, ?_, ?_, ?_, ?_, ?_, ?_, ?_, ?_, ?_, ?last⟩
  case last => exact (decodeTableWord_toNat 0x0000004F).trans (congrArg Except.toOption refused)
  all_goals exact decodeTableWord_of_encode _ rfl (by decide)

end Sys2Proof

namespace Sys2Proof.Machine

/-! ### Reserved Instruction (60_exceptions.md R301) -/

/-- Settles O9: the meaning of each of these cells is the exception itself, with no test before it. -/
theorem reservedCellsRaise : Obligations.ReservedCellsRaise := by
  intro s x y r q m raises
  and_intros <;> exact raises_of_raise rfl

/-- An instruction of a level raises Reserved Instruction where the level is reserved. -/
theorem raises_of_atLevel {i : Instr} {s : State} {level : ISAMode} {k : Result}
    (hr : reserves s.config level = true) (h : exec i s = atLevel level s k) : Raises i s .reservedInstruction :=
  raises_of_raise (h.trans (if_pos hr))

/-- Settles O14: the level is the first test of each of these instructions. -/
theorem higherLevelsRaise : Obligations.HigherLevelsRaise := by
  intro s d t r sa m x y raises
  refine ⟨fun h => ?levelIII, fun h => ?levelIV⟩
  case levelIII => and_intros <;> exact raises_of_atLevel (reserves_III_of_not h) rfl
  case levelIV => and_intros <;> exact raises_of_atLevel (reserves_IV_of_not h) rfl

end Sys2Proof.Machine

/-! Jumps and branches (40_jump_branch.md): the jumps (O51), the branches whose delay slot is executed in either case (O52)
and the branches likely (O53), outside a delay slot; and what is refused: every jump and branch in a delay slot (O54), and
the undefined operand combinations (O55). -/

namespace Sys2Proof.Machine

/-! ### Conditions by the complementary test (40_jump_branch.md R116) -/

/-- Unequal is the complement of the test BEQ makes. -/
theorem not_equal_iff (a b : DWord) : (!equal a b) = true ↔ a ≠ b := not_iff_of_iff (equal_iff a b) Iff.rfl

/-- More than zero is the complement of the test BLEZ makes. -/
theorem not_leZero_iff (v : DWord) : (!leZero v) = true ↔ v.toInt > 0 := not_iff_of_iff (leZero_iff v) not_le.symm

/-- At least zero is the complement of the test BLTZ makes. -/
theorem not_ltZero_iff (v : DWord) : (!ltZero v) = true ↔ v.toInt ≥ 0 := not_iff_of_iff (ltZero_iff v) not_lt.symm

section
variable {i : Instr} {s : State} {rd rs : RegIdx} {target : Addr} {b : Bool} {cond : Prop} {offset : BitVec 16}

/-! ### Jumps (R112) -/

/-- A jump that writes no link. -/
theorem jumpsTo_of_jumpTo (hs : s.inDelaySlot = false) (h : exec i s = outsideSlot s (jumpTo s target)) :
    JumpsTo i s [] target :=
  ⟨_, h.trans (outsideSlot_eq hs _), rfl, rfl, rfl, by simp, onlyRegs_retire s _⟩

/-- A jump that writes the link: its target is a value from before the write. -/
theorem jumpsTo_of_jumpTo_link (hs : s.inDelaySlot = false)
    (h : exec i s = outsideSlot s (jumpTo (s.setReg rd s.linkValue) target)) : JumpsTo i s [rd] target :=
  ⟨_, h.trans (outsideSlot_eq hs _), rfl, rfl, rfl, List.forall_mem_singleton.mpr (setReg_retire_reg s rd _ _),
    onlyRegs_setReg s rd _ _⟩

/-- JALR on two registers is a jump that writes the link to `rd` (R120). -/
theorem exec_jalr_of_ne (s : State) (hr : rs ≠ rd) :
    exec (.jalr rd rs) s = outsideSlot s (jumpTo (s.setReg rd s.linkValue) (s.reg rs)) :=
  congrArg (outsideSlot s) (if_neg hr)

/-! ### Branches outside a delay slot, with and without a link -/

/-- A branch whose delay slot is executed in either case. -/
theorem branches_of_outsideSlot (hs : s.inDelaySlot = false)
    (h : exec i s = outsideSlot s (branchIf s b (branchTarget s.pc offset))) (hb : b = true ↔ cond) :
    Branches i s [] cond (branchTo s.pc offset) :=
  branches_of_branchIf (h.trans (outsideSlot_eq hs _)) hb (.inl ⟨rfl, rfl⟩)

/-- A linking branch whose delay slot is executed in either case (R129, R130). -/
theorem branches_of_linkingBranch (hs : s.inDelaySlot = false) (hr : rs ≠ 31)
    (h : exec i s = linkingBranch s rs fun t => branchIf t b (branchTarget s.pc offset)) (hb : b = true ↔ cond) :
    Branches i s [31] cond (branchTo s.pc offset) :=
  branches_of_branchIf (h.trans (linkingBranch_eq hs hr _)) hb (.inr ⟨rfl, rfl⟩)

/-- A branch likely (R114). -/
theorem branchesLikely_of_outsideSlot (hs : s.inDelaySlot = false)
    (h : exec i s = outsideSlot s (branchLikelyIf s b (branchTarget s.pc offset))) (hb : b = true ↔ cond) :
    BranchesLikely i s [] cond (branchTo s.pc offset) :=
  branchesLikely_of_branchLikelyIf (h.trans (outsideSlot_eq hs _)) hb (.inl ⟨rfl, rfl⟩)

/-- A linking branch likely (R131, R132). -/
theorem branchesLikely_of_linkingBranch (hs : s.inDelaySlot = false) (hr : rs ≠ 31)
    (h : exec i s = linkingBranch s rs fun t => branchLikelyIf t b (branchTarget s.pc offset)) (hb : b = true ↔ cond) :
    BranchesLikely i s [31] cond (branchTo s.pc offset) :=
  branchesLikely_of_branchLikelyIf (h.trans (linkingBranch_eq hs hr _)) hb (.inr ⟨rfl, rfl⟩)

/-! ### Refusals (R113, R120, R129 to R132, D18) -/

/-- A jump or branch in a delay slot is refused before its operands are looked at. -/
theorem refused_in_delaySlot {k : Result} (hs : s.inDelaySlot = true) (h : exec i s = outsideSlot s k) :
    exec i s = .refused .branchInDelaySlot := h.trans (if_pos hs)

/-- Outside a delay slot a jump or branch is refused for operands that meet its operand test. -/
theorem refused_of_operands {p : Prop} [Decidable p] {r : Refusal} {k : Result} (hs : s.inDelaySlot = false)
    (h : exec i s = outsideSlot s (if p then .refused r else k)) (hp : p) : exec i s = .refused r :=
  h.trans ((outsideSlot_eq hs _).trans (if_pos hp))

end

/-- Settles O51: each jump's rule gives its target as it stands, those of J and JAL by the arithmetic of `jumpTarget_eq`. -/
theorem jumps : Obligations.Jumps := by
  intro s index rd rs hs
  rw [← jumpTarget_eq]
  refine ⟨?j, ?jal, ?jr, fun hr => ?jalr⟩
  case j | jr => exact jumpsTo_of_jumpTo hs rfl
  case jal => exact jumpsTo_of_jumpTo_link hs rfl
  case jalr => exact jumpsTo_of_jumpTo_link hs (exec_jalr_of_ne s hr)

/-- Settles O52, each branch by its test. -/
theorem branchesWithSlot : Obligations.BranchesWithSlot := by
  intro s rs rt offset hs a target
  refine ⟨?beq, ?bne, ?blez, ?bgtz, ?bltz, ?bgez, fun hr => ⟨?bltzal, ?bgezal⟩⟩
  case beq => exact branches_of_outsideSlot hs rfl (equal_iff a (s.reg rt))
  case bne => exact branches_of_outsideSlot hs rfl (not_equal_iff a (s.reg rt))
  case blez => exact branches_of_outsideSlot hs rfl (leZero_iff a)
  case bgtz => exact branches_of_outsideSlot hs rfl (not_leZero_iff a)
  case bltz => exact branches_of_outsideSlot hs rfl (ltZero_iff a)
  case bgez => exact branches_of_outsideSlot hs rfl (not_ltZero_iff a)
  case bltzal => exact branches_of_linkingBranch hs hr rfl (ltZero_iff a)
  case bgezal => exact branches_of_linkingBranch hs hr rfl (not_ltZero_iff a)

/-- Settles O53, each branch likely by its test. -/
theorem likelyBranches : Obligations.LikelyBranches := by
  intro s rs rt offset hs a target
  refine ⟨?beql, ?bnel, ?blezl, ?bgtzl, ?bltzl, ?bgezl, fun hr => ⟨?bltzall, ?bgezall⟩⟩
  case beql => exact branchesLikely_of_outsideSlot hs rfl (equal_iff a (s.reg rt))
  case bnel => exact branchesLikely_of_outsideSlot hs rfl (not_equal_iff a (s.reg rt))
  case blezl => exact branchesLikely_of_outsideSlot hs rfl (leZero_iff a)
  case bgtzl => exact branchesLikely_of_outsideSlot hs rfl (not_leZero_iff a)
  case bltzl => exact branchesLikely_of_outsideSlot hs rfl (ltZero_iff a)
  case bgezl => exact branchesLikely_of_outsideSlot hs rfl (not_ltZero_iff a)
  case bltzall => exact branchesLikely_of_linkingBranch hs hr rfl (ltZero_iff a)
  case bgezall => exact branchesLikely_of_linkingBranch hs hr rfl (not_ltZero_iff a)

/-- Settles O54: the delay slot is the first test of each of the twenty. -/
theorem branchInDelaySlotRefused : Obligations.BranchInDelaySlotRefused := by
  intro s x rd rs rt o hs refused
  and_intros <;> exact refused_in_delaySlot hs rfl

/-- Settles O55: outside a delay slot the operand test, `rs = rd` or `rs = 31`, comes next. -/
theorem undefinedOperandsRefused : Obligations.UndefinedOperandsRefused := by
  intro s r o hs
  and_intros <;> exact refused_of_operands hs rfl rfl

end Sys2Proof.Machine

/-! Signed and word arithmetic (41_alu_immediate.md, 45_alu_register.md): the word operations without a trap (O15), the
additions and subtractions that trap on overflow (O16), and the word operations on operands that hold no word value (O17). -/

namespace Sys2Proof.Machine

/-- The precondition of a word operation on two registers. -/
theorem areWordValues_iff (a b : DWord) : (isWordValue a && isWordValue b) = true ↔ IsWord a ∧ IsWord b := by
  rw [Bool.and_eq_true, isWordValue_iff, isWordValue_iff]

section
variable {i : Instr} {s : State} {rd : RegIdx} {ok : Bool} {n : Int}

/-! ### Word operations without a trap (41_alu_immediate.md R141) -/

/-- A word operation whose precondition holds. -/
theorem writes_of_wordResult {v : Word} (h : exec i s = wordResult s ok rd v) (hok : ok = true) :
    Writes i s rd (sextWord v) :=
  writes_of_writeResult (h.trans (if_pos hok))

/-- A word operation whose precondition fails. -/
theorem writesAny_of_wordResult {v : Word} (h : exec i s = wordResult s ok rd v) (hok : ¬ok = true) : WritesAny i s rd :=
  writesAny_of_writeAny (h.trans (if_neg hok)) (.inl rfl)

/-! ### Operations that trap on overflow (R142; 45_alu_register.md R221) -/

/-- A trapping word operation whose precondition holds, and whose result is the exact one where 32 bits hold it and none
where they do not. -/
theorem writes_or_overflows_of_trappingWordResult {r : Option Word} (h : exec i s = trappingWordResult s ok rd r)
    (hok : ok = true) (fits : FitsWord n → ∃ v, r = some v ∧ v.toInt = n) (overflows : ¬FitsWord n → r = none) :
    (FitsWord n → Writes i s rd (BitVec.ofInt 64 n)) ∧ (¬FitsWord n → Raises i s .integerOverflow) := by
  have h := h.trans (if_pos hok)
  constructor
  · intro hn
    obtain ⟨v, rfl, rfl⟩ := fits hn
    exact sext32_eq_ofInt v ▸ writes_of_writeResult h
  · intro hn
    obtain rfl := overflows hn
    exact raises_of_raise h

/-- A trapping doubleword operation, whose result is the exact one where 64 bits hold it and none where they do not. -/
theorem writes_or_overflows_of_trappingResult64 {r : Option DWord} (h : exec i s = trappingResult64 s rd r)
    (fits : FitsDoubleword n → ∃ v, r = some v ∧ v.toInt = n) (overflows : ¬FitsDoubleword n → r = none) :
    (FitsDoubleword n → Writes i s rd (BitVec.ofInt 64 n)) ∧ (¬FitsDoubleword n → Raises i s .integerOverflow) := by
  constructor
  · intro hn
    obtain ⟨v, rfl, rfl⟩ := fits hn
    exact BitVec.ofInt_toInt.symm ▸ writes_of_writeResult h
  · intro hn
    obtain rfl := overflows hn
    exact raises_of_raise h

/-- A trapping word operation whose precondition fails: the free bit decides between any value and the exception (log
entry 8). -/
theorem writesAny_or_traps_of_trappingWordResult {r : Option Word} (h : exec i s = trappingWordResult s ok rd r)
    (hok : ¬ok = true) :
    WritesAny i s rd ∨ ∃ d, exec i s = .next { s with exc := some (recordIn s .integerOverflow), draws := d } := by
  have h := h.trans (if_neg hok)
  by_cases hb : s.anyBit = true
  · exact .inr ⟨s.draws + 1, h.trans (if_pos hb)⟩
  · exact .inl (writesAny_of_writeAny (h.trans (if_neg hb)) (.inr rfl))

end

/-- Settles O15: the precondition holds, so each writes its 32-bit result. -/
theorem wordArithmetic : Obligations.WordArithmetic := by
  intro s rd rs rt imm hs
  refine ⟨?addiu, fun ht => ⟨?addu, ?subu⟩⟩
  case addiu => exact writes_of_wordResult rfl ((isWordValue_iff _).mpr hs)
  case addu | subu => exact writes_of_wordResult rfl ((areWordValues_iff _ _).mpr ⟨hs, ht⟩)

/-- Settles O16: a word value is the signed integer of its low word, so that the overflow test of `add32` and `sub32` is
about the exact result; that of `add64` and `sub64` is about it as it stands. -/
theorem trappingArithmetic : Obligations.TrappingArithmetic := by
  intro s rd rs rt imm
  refine ⟨fun hs => ?addi, fun hs ht => and_assoc.mp ⟨?add, ?sub⟩,
    fun h64 => and_assoc.mp ⟨?daddi, and_assoc.mp ⟨?dadd, ?dsub⟩⟩⟩
  case addi =>
    rw [← hs.toInt_low, ← signImm32_toInt]
    exact writes_or_overflows_of_trappingWordResult rfl ((isWordValue_iff _).mpr hs) add32_fits add32_overflows
  case add =>
    rw [← hs.toInt_low, ← ht.toInt_low]
    exact writes_or_overflows_of_trappingWordResult rfl ((areWordValues_iff _ _).mpr ⟨hs, ht⟩) add32_fits add32_overflows
  case sub =>
    rw [← hs.toInt_low, ← ht.toInt_low]
    exact writes_or_overflows_of_trappingWordResult rfl ((areWordValues_iff _ _).mpr ⟨hs, ht⟩) sub32_fits sub32_overflows
  case daddi =>
    rw [← signImm_toInt]
    exact writes_or_overflows_of_trappingResult64 (exec_level_III h64 rfl) add64_fits add64_overflows
  case dadd => exact writes_or_overflows_of_trappingResult64 (exec_level_III h64 rfl) add64_fits add64_overflows
  case dsub => exact writes_or_overflows_of_trappingResult64 (exec_level_III h64 rfl) sub64_fits sub64_overflows

/-- Settles O17: the precondition fails, so each writes any value, or traps where it may. -/
theorem nonWordArithmetic : Obligations.NonWordArithmetic := by
  intro s rd rs rt imm traps
  refine ⟨fun hs => ?immediate, fun hst => ?registers⟩
  case immediate =>
    have hok := mt (isWordValue_iff (s.reg rs)).mp hs
    exact ⟨writesAny_of_wordResult rfl hok, writesAny_or_traps_of_trappingWordResult rfl hok⟩
  case registers =>
    have hok := mt (areWordValues_iff (s.reg rs) (s.reg rt)).mp hst
    exact ⟨writesAny_of_wordResult rfl hok, writesAny_of_wordResult rfl hok,
      writesAny_or_traps_of_trappingWordResult rfl hok, writesAny_or_traps_of_trappingWordResult rfl hok⟩

end Sys2Proof.Machine

/-! The stores of whole items (O36), the unaligned loads (O39) and stores (O40), and the pairs of unaligned instructions that
load (O41) or store (O42) the item at any address. A pair works because the aligned items that hold the two ends of an item
have their bytes at the addresses of the item's own: `topItem_sigAddr` and `bottomItem_sigAddr`. -/

namespace Sys2Proof.Machine

/-- Settles O36: each store is a store of an aligned item. -/
theorem alignedStores : Obligations.AlignedStores := by
  intro s rt base offset ea may
  refine ⟨fun ⟨ha, hf⟩ => ?sb, fun ⟨ha, hf⟩ => ?sh, fun ⟨ha, hf⟩ => ?sw, fun ⟨ha, hf⟩ h64 => ?sd⟩
  case sb => exact stores_of_storeAligned (storeAligned_one ..).symm ha (by decide) hf
  case sh | sw => exact stores_of_storeAligned rfl ha (by decide) hf
  case sd => exact stores_of_storeAligned (exec_level_III h64 rfl) ha (by decide) hf

/-! ### The unaligned loads (42_load_store.md R172 to R175) -/

section
variable {s : State} {ea : Addr} {n : Nat}

/-- The left part, as a part of the item's value. -/
theorem readLane_left (h0 : 0 < n) (hn : n ≤ 8) :
    (s.readLane (leftLane s.config.bigEndian ea n)).toNat =
      memValue s (itemOf ea n) n % 256 ^ (bytePos s.config ea n + 1) := by
  have hb := bytePos_lt s.config ea h0
  have h := readLane_part s (itemOf ea n) (low := 0) (count := bytePos s.config ea n + 1) (by omega) hn
  rwa [Nat.pow_zero, Nat.div_one] at h

/-- The right part, as a part of the item's value. -/
theorem readLane_right (h0 : 0 < n) (hn : n ≤ 8) :
    (s.readLane (rightLane s.config.bigEndian ea n)).toNat =
      memValue s (itemOf ea n) n / 256 ^ bytePos s.config ea n % 256 ^ (n - bytePos s.config ea n) :=
  have hb := bytePos_lt s.config ea h0
  readLane_part s (itemOf ea n) (low := bytePos s.config ea n) (count := n - bytePos s.config ea n) (by omega) hn

end

/-- LWR's value: the merged word, below the bits the policy gives. -/
theorem mergeRight32_eq {policy : LWRUpperPolicy} {b : Nat} {old part : DWord} {temp : Word}
    (h : mergeRightWord b old part = temp) :
    mergeRight32 policy b old part =
      if b = 0 ∨ policy = .sext then sextWord temp else BitVec.ofNat 32 (old.toNat / 2 ^ 32) ++ temp := by
  have upper : old.extractLsb' 32 32 = BitVec.ofNat 32 (old.toNat / 2 ^ 32) := by
    rw [BitVec.extractLsb', Nat.shiftRight_eq_div_pow]
  unfold mergeRight32
  rw [h, upper]
  by_cases hb : b = 0
  · simp [hb, sextWord, sext32]
  · cases policy <;> simp [hb, sextWord, sext32]

/-- Settles O39: each load reads its part of the item, and its rule is the merge of that part. -/
theorem unalignedLoads : Obligations.UnalignedLoads := by
  intro s rt base offset c ea old word dword b4 b8
  have left {n : Nat} (h0 : 0 < n) (hn : n ≤ 8) := readLane_left (s := s) (ea := ea) h0 hn
  have right {n : Nat} (h0 : 0 < n) (hn : n ≤ 8) := readLane_right (s := s) (ea := ea) h0 hn
  have h4 : b4 < 4 := bytePos_lt c ea (by decide)
  have h8 : b8 < 8 := bytePos_lt c ea (by decide)
  refine ⟨fun ha => ?lwl, fun ha => ?lwr, fun h64 ha => ?ldl, fun h64 ha => ?ldr⟩
  case lwl =>
    exact writes_of_loadLane rfl (accessFault_part (mem_left_addrs c ea (by decide)) ha)
      (mergeLeft32_eq h4 _ _ (left (by decide) (by decide)))
  case lwr =>
    exact writes_of_loadLane rfl (accessFault_part (mem_right_addrs c ea (by decide)) ha)
      (mergeRight32_eq (mergeRightWord_eq h4 _ _ (memValue_lt s _ 4) (right (by decide) (by decide))))
  case ldl =>
    exact writes_of_loadLane (exec_level_III h64 rfl) (accessFault_part (mem_left_addrs c ea (by decide)) ha)
      (mergeLeft64_eq h8 _ _ (left (by decide) (by decide)))
  case ldr =>
    exact writes_of_loadLane (exec_level_III h64 rfl) (accessFault_part (mem_right_addrs c ea (by decide)) ha)
      (mergeRight64_eq h8 _ _ (memValue_lt s _ 8) (right (by decide) (by decide)))

/-! ### The unaligned stores (R176 to R179) -/

section
variable {i : Instr} {s : State} {ea : Addr} {n : Nat} {v w : DWord}

/-- An instruction that stores a value into the left part, whose bytes are the upper ones of `w`. -/
theorem storesPart_of_left (h : exec i s = storeLane s ea (leftLane s.config.bigEndian ea n) v) (h0 : 0 < n)
    (hn : n ≤ 8) (ha : AllowedPart s.config .store ea n (InLeft s.config ea n))
    (hv : ∀ j, j ≤ bytePos s.config ea n → byteOf v j = byteOf w (j + (n - 1 - bytePos s.config ea n))) :
    StoresPart i s ea n (InLeft s.config ea n) (fun k => byteRank s.config n k + (n - 1 - bytePos s.config ea n)) w := by
  have hb := bytePos_lt s.config ea h0
  refine storesPart_of_storeLane h (by omega) ha (mem_left_addrs s.config ea h0) rfl ?_ fun k hk => ?_
  · exact (Nat.zero_add (bytePos s.config ea n + 1)).trans_le hb
  · obtain ⟨hle, hplace⟩ := place_left hk
    exact ⟨_, Nat.lt_succ_of_le hle, hplace, hv _ hle⟩

/-- An instruction that stores a value into the right part. -/
theorem storesPart_of_right (h : exec i s = storeLane s ea (rightLane s.config.bigEndian ea n) v) (h0 : 0 < n)
    (hn : n ≤ 8) (ha : AllowedPart s.config .store ea n (InRight s.config ea n)) :
    StoresPart i s ea n (InRight s.config ea n) (fun k => byteRank s.config n k - bytePos s.config ea n) v := by
  have hb := bytePos_lt s.config ea h0
  refine storesPart_of_storeLane h (by omega) ha (mem_right_addrs s.config ea h0) rfl ?_ fun k hk => ?_
  · exact (Nat.add_sub_cancel' hb.le).le
  · obtain ⟨hle, hlt, hplace⟩ := place_right hk
    exact ⟨_, Nat.sub_lt_sub_right hle hlt, hplace, rfl⟩

end

/-- Settles O40: the R forms store the low bytes of the register, and the L forms those of it shifted down. -/
theorem unalignedStores : Obligations.UnalignedStores := by
  intro s rt base offset c ea b4 b8
  have h4 : b4 < 4 := bytePos_lt c ea (by decide)
  have h8 : b8 < 8 := bytePos_lt c ea (by decide)
  refine ⟨fun ha => ?swl, fun ha => ?swr, fun h64 ha => ?sdl, fun h64 ha => ?sdr⟩
  case swl => exact storesPart_of_left rfl (by decide) (by decide) ha fun j hj => byteOf_storedLeft32 hj h4 _
  case swr => exact storesPart_of_right rfl (by decide) (by decide) ha
  case sdl =>
    exact storesPart_of_left (exec_level_III h64 rfl) (by decide) (by decide) ha fun j _ => byteOf_storedLeft64 h8 _
  case sdr => exact storesPart_of_right (exec_level_III h64 rfl) (by decide) (by decide) ha

/-! ### The ends of an item at any address (42_load_store.md R185) -/

/-- The address of the most significant byte of an item. -/
def topAddr (c : Config) (a : Addr) (n : Nat) : Addr := sigAddr c.bigEndian a n (n - 1)

/-- The address of the least significant byte of an item. -/
def bottomAddr (c : Config) (a : Addr) (n : Nat) : Addr := sigAddr c.bigEndian a n 0

/-- The significance of the top byte of an item in the aligned item that holds it. -/
def topPos (c : Config) (a : Addr) (n : Nat) : Nat := bytePos c (topAddr c a n) n

/-- The significance of the bottom byte of an item in the aligned item that holds it. -/
def bottomPos (c : Config) (a : Addr) (n : Nat) : Nat := bytePos c (bottomAddr c a n) n

section
variable {c : Config} {a : Addr} {n i : Nat}

/-- Two places are one address exactly where the places as far above them are. -/
theorem place_add_iff {a b : Addr} {i j : Nat} (k : Nat) :
    a + BitVec.ofNat 64 (i + k) = b + BitVec.ofNat 64 (j + k) ↔ a + BitVec.ofNat 64 i = b + BitVec.ofNat 64 j := by
  rw [← add_ofNat_add, ← add_ofNat_add]
  exact add_left_inj _

/-- The bytes of the aligned item up to the top byte are the upper bytes of the item. -/
theorem topItem_sigAddr (hi : i ≤ topPos c a n) (hn : 0 < n) :
    sigAddr c.bigEndian (itemOf (topAddr c a n) n) n i = sigAddr c.bigEndian a n (i + (n - 1 - topPos c a n)) := by
  have hx := itemOf_add (topAddr c a n) n
  have hm := Nat.mod_lt (topAddr c a n).toNat hn
  rw [topPos, bytePos] at hi ⊢
  generalize (topAddr c a n).toNat % n = m at hx hm hi ⊢
  rw [topAddr] at hx ⊢
  cases hb : c.bigEndian <;> simp only [sigAddr_eq, byteRank, hb, Bool.false_eq_true, if_false, if_true] at hx hi ⊢
  · rwa [← place_add_iff (m - i), Nat.add_sub_cancel' hi, show i + (n - 1 - m) + (m - i) = n - 1 by omega]
  · rwa [show n - 1 - i = m + (n - 1 - m - i) by omega,
      show n - 1 - (i + (n - 1 - (n - 1 - m))) = n - 1 - (n - 1) + (n - 1 - m - i) by omega, place_add_iff]

/-- The bytes of the aligned item from the bottom byte on are the lower bytes of the item. -/
theorem bottomItem_sigAddr (hi : bottomPos c a n ≤ i) (hin : i < n) :
    sigAddr c.bigEndian (itemOf (bottomAddr c a n) n) n i = sigAddr c.bigEndian a n (i - bottomPos c a n) := by
  have hx := itemOf_add (bottomAddr c a n) n
  have hm := Nat.mod_lt (bottomAddr c a n).toNat (Nat.zero_lt_of_lt hin)
  rw [bottomPos, bytePos] at hi ⊢
  generalize (bottomAddr c a n).toNat % n = m at hx hm hi ⊢
  rw [bottomAddr] at hx ⊢
  cases hb : c.bigEndian <;> simp only [sigAddr_eq, byteRank, hb, Bool.false_eq_true, if_false, if_true] at hx hi ⊢
  · obtain ⟨k, rfl⟩ := Nat.exists_eq_add_of_le hi
    rw [← add_ofNat_add, hx, add_ofNat_add, Nat.zero_add, Nat.add_sub_cancel_left]
  · rwa [← place_add_iff (i - (n - 1 - m)), show n - 1 - i + (i - (n - 1 - m)) = m by omega,
      show n - 1 - (i - (n - 1 - m)) + (i - (n - 1 - m)) = n - 1 - 0 by omega]

/-- The place of an address in its aligned item, also past the end of the address space. -/
theorem toNat_add_ofNat_mod (a : Addr) {n : Nat} (hd : n ∣ 2 ^ 64) (k : Nat) :
    (a + BitVec.ofNat 64 k).toNat % n = (a.toNat + k) % n := by
  rw [BitVec.toNat_add, BitVec.toNat_ofNat, Nat.mod_mod_of_dvd _ hd, Nat.add_mod, Nat.mod_mod_of_dvd _ hd, ← Nat.add_mod]

/-- The first byte of an item is at most one place past its last byte, each in its aligned item. -/
theorem first_mod_le (a : Addr) (hd : n ∣ 2 ^ 64) (hn : 0 < n) :
    (a + BitVec.ofNat 64 0).toNat % n ≤ (a + BitVec.ofNat 64 (n - 1)).toNat % n + 1 := by
  rw [toNat_add_ofNat_mod a hd, toNat_add_ofNat_mod a hd]
  calc (a.toNat + 0) % n = (a.toNat + (n - 1) + 1) % n := by
        rw [Nat.add_assoc, Nat.sub_add_cancel hn, Nat.add_mod_right, Nat.add_zero]
    _ = ((a.toNat + (n - 1)) % n + 1) % n := (Nat.mod_add_mod _ _ _).symm
    _ ≤ (a.toNat + (n - 1)) % n + 1 := Nat.mod_le _ _

/-- The two parts leave no byte of the item out. -/
theorem bottomPos_le (hd : n ∣ 2 ^ 64) (hn : 0 < n) : bottomPos c a n ≤ topPos c a n + 1 := by
  have h := first_mod_le a hd hn
  have hlt := Nat.mod_lt (a + BitVec.ofNat 64 (n - 1)).toNat hn
  simp only [bottomPos, topPos, bytePos, byteRank, bottomAddr, topAddr, sigAddr_eq]
  cases c.bigEndian <;> simp only [Bool.false_eq_true, if_false, if_true, Nat.sub_zero, Nat.sub_self]
  · exact h
  · omega

theorem topPos_lt (hn : 0 < n) : topPos c a n < n := bytePos_lt c _ hn

theorem bottomPos_lt (hn : 0 < n) : bottomPos c a n < n := bytePos_lt c _ hn

/-- Where a whole item may be accessed, its part in the aligned item of its top byte may be. -/
theorem Allowed.top {kind : AccessKind} (h : Allowed c kind a n) (hn : 0 < n) :
    AllowedPart c kind (topAddr c a n) n (InLeft c (topAddr c a n) n) := by
  intro k hk
  obtain ⟨hle, hplace⟩ := place_left hk
  replace hle : byteRank c n k ≤ topPos c a n := hle
  rw [hplace, Nat.zero_add, topItem_sigAddr hle hn]
  have := topPos_lt (c := c) (a := a) hn
  exact h _ (by split <;> omega)

/-- Where a whole item may be accessed, its part in the aligned item of its bottom byte may be. -/
theorem Allowed.bottom {kind : AccessKind} (h : Allowed c kind a n) :
    AllowedPart c kind (bottomAddr c a n) n (InRight c (bottomAddr c a n) n) := by
  intro k hk
  obtain ⟨hle, hlt, hplace⟩ := place_right hk
  rw [hplace, Nat.add_sub_cancel' hle, bottomItem_sigAddr hle hlt]
  exact h _ (by split <;> omega)

end

/-! ### The parts as numbers -/

section
variable {s : State} {a : Addr} {n : Nat}

/-- Parts of two items with the same addresses have the same value. -/
theorem memValue_part_congr {x y : Addr} {low low' count : Nat} (hn : n ≤ 8) (h : low + count ≤ n) (h' : low' + count ≤ n)
    (hxy : ∀ i, i < count → sigAddr s.config.bigEndian x n (low + i) = sigAddr s.config.bigEndian y n (low' + i)) :
    memValue s x n / 256 ^ low % 256 ^ count = memValue s y n / 256 ^ low' % 256 ^ count := by
  have haddrs : Lane.addrs s.config.bigEndian ⟨x, n, low, count⟩ = Lane.addrs s.config.bigEndian ⟨y, n, low', count⟩ :=
    List.map_congr_left fun i hi => hxy i (List.mem_range.mp hi)
  rw [← readLane_part s x h hn, ← readLane_part s y h' hn, State.readLane, State.readLane, haddrs]

/-- A quotient by the lower bytes fits the bytes that remain. -/
theorem memValue_div_lt (x : Addr) {k : Nat} (hk : k ≤ n) : memValue s x n / 256 ^ k < 256 ^ (n - k) := by
  rw [Nat.div_lt_iff_lt_mul (by positivity), ← Nat.pow_add, Nat.sub_add_cancel hk]
  exact memValue_lt s x n

/-- The part that an L form reads at the top byte: the upper bytes of the item. -/
theorem memValue_top (hn : 0 < n) (h8 : n ≤ 8) :
    memValue s (itemOf (topAddr s.config a n) n) n % 256 ^ (topPos s.config a n + 1) =
      memValue s a n / 256 ^ (n - 1 - topPos s.config a n) := by
  have hm := topPos_lt (c := s.config) (a := a) hn
  have hlt := memValue_div_lt (s := s) a (n := n) (k := n - 1 - topPos s.config a n) (by omega)
  rw [show n - (n - 1 - topPos s.config a n) = topPos s.config a n + 1 by omega] at hlt
  have h := memValue_part_congr (s := s) (x := itemOf (topAddr s.config a n) n) (y := a) (low := 0)
    (low' := n - 1 - topPos s.config a n) (count := topPos s.config a n + 1) h8 (by omega) (by omega) fun i hi => by
      rw [Nat.zero_add, topItem_sigAddr (by omega) hn, Nat.add_comm]
  rwa [Nat.pow_zero, Nat.div_one, Nat.mod_eq_of_lt hlt] at h

/-- The part that an R form reads at the bottom byte: the lower bytes of the item. -/
theorem memValue_bottom (hn : 0 < n) (h8 : n ≤ 8) :
    memValue s (itemOf (bottomAddr s.config a n) n) n / 256 ^ bottomPos s.config a n =
      memValue s a n % 256 ^ (n - bottomPos s.config a n) := by
  have hr := bottomPos_lt (c := s.config) (a := a) hn
  have h := memValue_part_congr (s := s) (x := itemOf (bottomAddr s.config a n) n) (y := a)
    (low := bottomPos s.config a n) (low' := 0) (count := n - bottomPos s.config a n) h8 (by omega) (by omega)
    fun i hi => by rw [bottomItem_sigAddr (by omega) (by omega), Nat.zero_add, Nat.add_sub_cancel_left]
  rwa [Nat.pow_zero, Nat.div_one, Nat.mod_eq_of_lt (memValue_div_lt _ hr.le)] at h

end

/-! ### Numbers joined at a power: the upper part of one and the lower part of another -/

/-- The part of `hi` from `q` up and the part of `lo` below `q`. -/
def joinAt (q hi lo : Nat) : Nat := hi / q * q + lo % q

section
variable {p q hi lo : Nat}

/-- Above the join it is the upper number. -/
theorem joinAt_div (hq : 0 < q) (hp : q ∣ p) : joinAt q hi lo / p = hi / p := by
  obtain ⟨k, rfl⟩ := hp
  rw [joinAt, ← Nat.div_div_eq_div_mul, ← Nat.div_div_eq_div_mul, Nat.mul_comm, Nat.mul_add_div hq,
    Nat.div_eq_of_lt (Nat.mod_lt lo hq), Nat.add_zero]

/-- Below the join it is the lower number. -/
theorem joinAt_mod (hp : q ∣ p) : joinAt p hi lo % q = lo % q := by
  rw [joinAt, Nat.mul_comm, Nat.add_mod, Nat.mod_eq_zero_of_dvd (hp.mul_right _), Nat.zero_add, Nat.mod_mod,
    Nat.mod_mod_of_dvd _ hp]

/-- A number joined with one that agrees with it above. -/
theorem joinAt_of_div (h : hi / q = lo / q) : joinAt q hi lo = lo := by
  rw [joinAt, h, Nat.mul_comm, Nat.div_add_mod]

/-- A number joined with one that agrees with it below. -/
theorem joinAt_of_mod (h : lo % q = hi % q) : joinAt q hi lo = hi := by
  rw [joinAt, h, Nat.mul_comm, Nat.div_add_mod]

/-- A join fits where the upper number does. -/
theorem joinAt_lt (hq : 0 < q) (hp : q ∣ p) (h : hi < p) : joinAt q hi lo < p := by
  have hp0 : 0 < p := Nat.zero_lt_of_lt h
  rw [← Nat.div_eq_zero_iff_lt hp0, joinAt_div hq hp, Nat.div_eq_of_lt h]

end

/-! ### The values an L form and an R form of the idiom leave in the register -/

/-- LWL at the top byte. -/
def topWord (q v : Nat) (old : DWord) : DWord := sextWord (BitVec.ofNat 32 (joinAt q v old.toNat))

/-- LWR at the bottom byte: bits 63:32 are the sign of the word where `sext` holds, and are kept where it does not. -/
def bottomWord (p : Nat) (sext : Prop) [Decidable sext] (v : Nat) (old : DWord) : DWord :=
  let temp := BitVec.ofNat 32 (joinAt p (old.toNat % 2 ^ 32) v)
  if sext then sextWord temp else BitVec.ofNat 32 (old.toNat / 2 ^ 32) ++ temp

/-- LDL at the top byte. -/
def topDoubleword (q v : Nat) (old : DWord) : DWord := BitVec.ofNat 64 (joinAt q v old.toNat)

/-- LDR at the bottom byte. -/
def bottomDoubleword (p v : Nat) (old : DWord) : DWord := BitVec.ofNat 64 (joinAt p old.toNat v)

/-- A sign extension as a number: the word, below 32 copies of its sign. -/
theorem sextWord_toNat (w : Word) :
    (sextWord w).toNat = (if w.toNat / 2 ^ 31 = 0 then 0 else 2 ^ 32 - 1) * 2 ^ 32 + w.toNat := by
  have hw := w.isLt
  rw [sextWord, BitVec.toNat_signExtend, BitVec.toNat_setWidth, BitVec.msb_eq_decide, Nat.mod_eq_of_lt (by omega)]
  by_cases h : w.toNat / 2 ^ 31 = 0
  · simp only [h, if_true, decide_eq_true_eq]
    rw [if_neg (by omega)]
    omega
  · simp only [h, if_false, decide_eq_true_eq]
    rw [if_pos (by omega)]
    omega

/-- The low word of a sign extension. -/
theorem sextWord_toNat_mod (w : Word) : (sextWord w).toNat % 2 ^ 32 = w.toNat := by
  rw [sextWord_toNat, Nat.mul_add_mod_of_lt w.isLt]

/-- Two words as a number. -/
theorem append_toNat (u w : Word) : (u ++ w).toNat = u.toNat * 2 ^ 32 + w.toNat := by
  rw [BitVec.toNat_append, ← Nat.shiftLeft_add_eq_or_of_lt w.isLt, Nat.shiftLeft_eq]

/-- A word below bits 63:32 of the sign extension of a word of the same sign is sign-extended. -/
theorem upper_append_eq_sextWord {w x : Word} (h : w.toNat / 2 ^ 31 = x.toNat / 2 ^ 31) :
    BitVec.ofNat 32 ((sextWord w).toNat / 2 ^ 32) ++ x = sextWord x := by
  apply BitVec.eq_of_toNat_eq
  have hw := w.isLt
  rw [append_toNat, sextWord_toNat, sextWord_toNat, BitVec.toNat_ofNat, h]
  split <;> omega

section
variable {p q v : Nat} (old : DWord)

/-- LDR after LDL. -/
theorem bottom_topDoubleword (hq : 0 < q) (hqp : q ∣ p) (hp : p ∣ 2 ^ 64) (hv : v < 2 ^ 64) :
    bottomDoubleword p v (topDoubleword q v old) = BitVec.ofNat 64 v := by
  rw [bottomDoubleword, topDoubleword, BitVec.toNat_ofNat, Nat.mod_eq_of_lt (joinAt_lt hq (hqp.trans hp) hv),
    joinAt_of_div (joinAt_div hq hqp)]

/-- LDL after LDR. -/
theorem top_bottomDoubleword (hqp : q ∣ p) (hp : p ∣ 2 ^ 64) :
    topDoubleword q v (bottomDoubleword p v old) = BitVec.ofNat 64 v := by
  rw [bottomDoubleword, topDoubleword, BitVec.toNat_ofNat, joinAt_of_mod]
  rw [Nat.mod_mod_of_dvd _ (hqp.trans hp), joinAt_mod hqp]

/-- LWR after LWL: LWL has loaded bit 31, so that bits 63:32 are the sign in either case. -/
theorem bottom_topWord (sext : Prop) [Decidable sext] (hq : 0 < q) (hqp : q ∣ p) (hq31 : q ∣ 2 ^ 31) (hv : v < 2 ^ 32) :
    bottomWord p sext v (topWord q v old) = sextWord (BitVec.ofNat 32 v) := by
  have hlt := joinAt_lt (lo := old.toNat) hq (hq31.trans (Nat.pow_dvd_pow 2 (by decide : 31 ≤ 32))) hv
  have hnat {m : Nat} (hm : m < 2 ^ 32) : (BitVec.ofNat 32 m).toNat = m := by
    rw [BitVec.toNat_ofNat, Nat.mod_eq_of_lt hm]
  rw [bottomWord, topWord, sextWord_toNat_mod, hnat hlt, joinAt_of_div (joinAt_div hq hqp)]
  refine (if_congr Iff.rfl rfl (upper_append_eq_sextWord ?_)).trans (ite_self _)
  rw [hnat hlt, hnat hv, joinAt_div hq hq31]

/-- The low word that LWR leaves. -/
theorem bottomWord_toNat_mod (sext : Prop) [Decidable sext] :
    (bottomWord p sext v old).toNat % 2 ^ 32 = joinAt p (old.toNat % 2 ^ 32) v % 2 ^ 32 := by
  rw [bottomWord]
  split
  · rw [sextWord_toNat_mod, BitVec.toNat_ofNat]
  · rw [append_toNat, Nat.mul_add_mod_of_lt (BitVec.isLt _), BitVec.toNat_ofNat]

/-- LWL after LWR. -/
theorem top_bottomWord (sext : Prop) [Decidable sext] (hqp : q ∣ p) (hp : p ∣ 2 ^ 32) :
    topWord q v (bottomWord p sext v old) = sextWord (BitVec.ofNat 32 v) := by
  have hq := hqp.trans hp
  rw [topWord, joinAt_of_mod]
  rw [← Nat.mod_mod_of_dvd _ hq, bottomWord_toNat_mod, Nat.mod_mod_of_dvd _ hq, joinAt_mod hqp]

end

/-! ### A pair of instructions, one after the other -/

/-- A state in which the offsets reach the top and the bottom byte of the item at an address. -/
structure Reaches (c : Config) (a : Addr) (n : Nat) (left right : BitVec 16) (base : RegIdx) (t : State) : Prop where
  config : t.config = c
  top : effectiveAddr t left base = topAddr c a n
  bottom : effectiveAddr t right base = bottomAddr c a n

/-- The base register and the parameters are all that the reach depends on. -/
theorem Reaches.kept {c : Config} {a : Addr} {n : Nat} {left right : BitVec 16} {base : RegIdx} {s t : State}
    {written : List RegIdx} (h : Reaches c a n left right base s) (hr : SameRegs s t written) (hb : base ∉ written)
    (hrun : SameRun s t) : Reaches c a n left right base t := by
  obtain ⟨hc, htop, hbottom⟩ := h
  refine ⟨hrun.2.trans hc, ?_, ?_⟩
  · rwa [effectiveAddr, hr base hb]
  · rwa [effectiveAddr, hr base hb]

/-- The offsets of the idiom reach the ends: with `BigEndianCPU` = 1 the first byte is the top one, and with 0 the last. -/
theorem reaches_of_far {s : State} {base : RegIdx} {first last : BitVec 16} {n : Nat}
    (h : effectiveAddr s last base = effectiveAddr s first base + BitVec.ofNat 64 (n - 1)) :
    Reaches s.config (effectiveAddr s first base) n (if s.config.bigEndian then first else last)
      (if s.config.bigEndian then last else first) base s := by
  refine ⟨rfl, ?_, ?_⟩
  · rw [topAddr, sigAddr_eq]
    cases s.config.bigEndian <;> simp [h]
  · rw [bottomAddr, sigAddr_eq]
    cases s.config.bigEndian <;> simp [h]

/-- Two instructions complete in turn, and together they write the value to the register and change nothing else. -/
def WriteInTurn (i j : Instr) (s : State) (rt : RegIdx) (v : DWord) : Prop :=
  ∃ t u, exec i s = .next t ∧ exec j t = .next u ∧ u.reg rt = v ∧
    SameRegs s u [rt] ∧ SameHiLo s u ∧ SameLink s u ∧ SameMem s u ∧ SameRun s u

section
variable {s t u : State} {written : List RegIdx}

theorem SameRegs.trans (h : SameRegs s t written) (h' : SameRegs t u written) : SameRegs s u written :=
  fun r hr => (h' r hr).trans (h r hr)

theorem SameHiLo.trans (h : SameHiLo s t) (h' : SameHiLo t u) : SameHiLo s u := by
  obtain ⟨hi, lo, unread⟩ := h
  obtain ⟨hi', lo', unread'⟩ := h'
  exact ⟨hi'.trans hi, lo'.trans lo, unread'.trans unread⟩

theorem SameLink.trans (h : SameLink s t) (h' : SameLink t u) : SameLink s u := by
  obtain ⟨bit, addr, width, block⟩ := h
  obtain ⟨bit', addr', width', block'⟩ := h'
  exact ⟨bit'.trans bit, addr'.trans addr, width'.trans width, block'.trans block⟩

theorem SameMem.trans (h : SameMem s t) (h' : SameMem t u) : SameMem s u := by
  obtain ⟨bytes, stored⟩ := h
  obtain ⟨bytes', stored'⟩ := h'
  exact ⟨fun a => (bytes' a).trans (bytes a), stored'.trans stored⟩

theorem SameRun.trans (h : SameRun s t) (h' : SameRun t u) : SameRun s u := by
  obtain ⟨exc, config⟩ := h
  obtain ⟨exc', config'⟩ := h'
  exact ⟨exc'.trans exc, config'.trans config⟩

end

/-- Two loads, the second of which writes a function of what the first has left in the register. -/
theorem writeInTurn_of_writes {i j : Instr} {s : State} {rt : RegIdx} {x v : DWord} (h0 : rt ≠ 0) (hi : Writes i s rt x)
    (hj : ∀ t, t.reg rt = x → OnlyRegs s t [rt] → Writes j t rt v) : WriteInTurn i j s rt v := by
  obtain ⟨t, ht, hx, hframe, -⟩ := hi
  rw [if_neg h0] at hx
  obtain ⟨u, hu, hv, ⟨regs', hiLo', link', mem', run', -⟩, -⟩ := hj t hx hframe
  rw [if_neg h0] at hv
  obtain ⟨regs, hiLo, link, mem, run, -⟩ := hframe
  exact ⟨t, u, ht, hu, hv, regs.trans regs', hiLo.trans hiLo', link.trans link', mem.trans mem', run.trans run'⟩

/-! ### The idiom's loads -/

section
variable {c : Config} {a : Addr} {left right : BitVec 16} {base rt : RegIdx} {t : State} {n : Nat}

/-- The number of bits of an item below its part at the top byte. -/
def topCut (c : Config) (a : Addr) (n : Nat) : Nat := 8 * (n - 1) - 8 * topPos c a n

/-- The number of bits of an item in its part at the bottom byte. -/
def bottomCut (c : Config) (a : Addr) (n : Nat) : Nat := 8 * n - 8 * bottomPos c a n

/-- The part at the top byte, by bits. -/
theorem memValue_topCut (t : State) (a : Addr) (hn : 0 < n) (h8 : n ≤ 8) :
    memValue t (itemOf (topAddr t.config a n) n) n % 2 ^ (8 * bytePos t.config (topAddr t.config a n) n + 8) =
      memValue t a n / 2 ^ topCut t.config a n := by
  have h := memValue_top (s := t) (a := a) hn h8
  rwa [pow256, pow256, Nat.mul_sub] at h

/-- The part at the bottom byte, by bits. -/
theorem memValue_bottomCut (t : State) (a : Addr) (hn : 0 < n) (h8 : n ≤ 8) :
    memValue t (itemOf (bottomAddr t.config a n) n) n / 2 ^ (8 * bytePos t.config (bottomAddr t.config a n) n) =
      memValue t a n % 2 ^ bottomCut t.config a n := by
  have h := memValue_bottom (s := t) (a := a) hn h8
  rwa [pow256, pow256, Nat.mul_sub] at h

/-- The cut at the top is no higher than that at the bottom. -/
theorem topCut_le (c : Config) (a : Addr) (hd : n ∣ 2 ^ 64) (hn : 0 < n) : topCut c a n ≤ bottomCut c a n := by
  have := bottomPos_le (c := c) (a := a) hd hn
  rw [topCut, bottomCut]
  omega

/-- LWL at the top byte of a word. -/
theorem writes_lwl_top (h : Reaches c a 4 left right base t) (ha : Allowed c .load a 4) :
    Writes (.lwl rt left base) t rt (topWord (2 ^ topCut c a 4) (memValue t a 4) (t.reg rt)) := by
  obtain ⟨rfl, htop, -⟩ := h
  obtain ⟨hlwl, -⟩ := unalignedLoads t rt base left
  simp only [htop, memValue_topCut t a (n := 4) (by decide) (by decide)] at hlwl
  exact hlwl (ha.top (by decide))

/-- LWR at the bottom byte of a word. -/
theorem writes_lwr_bottom (h : Reaches c a 4 left right base t) (ha : Allowed c .load a 4) :
    Writes (.lwr rt right base) t rt
      (bottomWord (2 ^ bottomCut c a 4) (bottomPos c a 4 = 0 ∨ c.lwrUpperPolicy = .sext) (memValue t a 4) (t.reg rt)) := by
  obtain ⟨rfl, -, hbottom⟩ := h
  obtain ⟨-, hlwr, -⟩ := unalignedLoads t rt base right
  simp only [hbottom, memValue_bottomCut t a (n := 4) (by decide) (by decide)] at hlwr
  exact hlwr ha.bottom

/-- LDL at the top byte of a doubleword. -/
theorem writes_ldl_top (h : Reaches c a 8 left right base t) (h64 : Has64 c) (ha : Allowed c .load a 8) :
    Writes (.ldl rt left base) t rt (topDoubleword (2 ^ topCut c a 8) (memValue t a 8) (t.reg rt)) := by
  obtain ⟨rfl, htop, -⟩ := h
  obtain ⟨-, -, hldl, -⟩ := unalignedLoads t rt base left
  simp only [htop, memValue_topCut t a (n := 8) (by decide) (by decide)] at hldl
  exact hldl h64 (ha.top (by decide))

/-- LDR at the bottom byte of a doubleword. -/
theorem writes_ldr_bottom (h : Reaches c a 8 left right base t) (h64 : Has64 c) (ha : Allowed c .load a 8) :
    Writes (.ldr rt right base) t rt (bottomDoubleword (2 ^ bottomCut c a 8) (memValue t a 8) (t.reg rt)) := by
  obtain ⟨rfl, -, hbottom⟩ := h
  obtain ⟨-, -, -, hldr⟩ := unalignedLoads t rt base right
  simp only [hbottom, memValue_bottomCut t a (n := 8) (by decide) (by decide)] at hldr
  exact hldr h64 ha.bottom

/-- Two loads of the idiom, each of which writes a function of the item and of the register. -/
theorem writeInTurn_of_reaches {i j : Instr} {s : State} {f g : Nat → DWord → DWord}
    (hs : Reaches c a n left right base s) (h0 : rt ≠ 0) (hb : rt ≠ base)
    (hi : ∀ t, Reaches c a n left right base t → Writes i t rt (f (memValue t a n) (t.reg rt)))
    (hj : ∀ t, Reaches c a n left right base t → Writes j t rt (g (memValue t a n) (t.reg rt))) :
    WriteInTurn i j s rt (g (memValue s a n) (f (memValue s a n) (s.reg rt))) := by
  refine writeInTurn_of_writes h0 (hi s hs) fun t ht ⟨regs, _, _, ⟨bytes, _⟩, run, _⟩ => ?_
  have h := hj t (hs.kept regs (by simpa using hb.symm) run)
  rwa [ht, memValue_congr bytes run.2] at h

end

/-- Settles O41: the second load joins its part of the item to the part the first has left in the register. -/
theorem unalignedLoadIdiom : Obligations.UnalignedLoadIdiom := by
  intro s rt base first last h0 hb ea far left right both
  have cut_dvd {n : Nat} (hd : n ∣ 2 ^ 64) (hn : 0 < n) : 2 ^ topCut s.config ea n ∣ 2 ^ bottomCut s.config ea n :=
    Nat.pow_dvd_pow 2 (topCut_le s.config ea hd hn)
  have bottom_dvd (n : Nat) : 2 ^ bottomCut s.config ea n ∣ 2 ^ (8 * n) := Nat.pow_dvd_pow 2 (Nat.sub_le _ _)
  have top_dvd : 2 ^ topCut s.config ea 4 ∣ 2 ^ 31 := Nat.pow_dvd_pow 2 ((Nat.sub_le _ _).trans (by decide))
  refine ⟨fun hfar ha => ?word, fun hfar h64 ha => ?doubleword⟩
  case word =>
    have hs : Reaches s.config ea 4 left right base s := reaches_of_far hfar
    have hdvd := cut_dvd (n := 4) (by decide) (by decide)
    constructor
    · rw [← bottom_topWord (s.reg rt) (bottomPos s.config ea 4 = 0 ∨ s.config.lwrUpperPolicy = .sext) (by positivity)
        hdvd top_dvd (memValue_lt s ea 4)]
      exact writeInTurn_of_reaches hs h0 hb (fun _ h => writes_lwl_top h ha) fun _ h => writes_lwr_bottom h ha
    · rw [← top_bottomWord (s.reg rt) (bottomPos s.config ea 4 = 0 ∨ s.config.lwrUpperPolicy = .sext) hdvd
        (bottom_dvd 4)]
      exact writeInTurn_of_reaches hs h0 hb (fun _ h => writes_lwr_bottom h ha) fun _ h => writes_lwl_top h ha
  case doubleword =>
    have hs : Reaches s.config ea 8 left right base s := reaches_of_far hfar
    have hdvd := cut_dvd (n := 8) (by decide) (by decide)
    constructor
    · rw [← bottom_topDoubleword (s.reg rt) (by positivity) hdvd (bottom_dvd 8) (memValue_lt s ea 8)]
      exact writeInTurn_of_reaches hs h0 hb (fun _ h => writes_ldl_top h h64 ha) fun _ h => writes_ldr_bottom h h64 ha
    · rw [← top_bottomDoubleword (s.reg rt) hdvd (bottom_dvd 8)]
      exact writeInTurn_of_reaches hs h0 hb (fun _ h => writes_ldr_bottom h h64 ha) fun _ h => writes_ldl_top h h64 ha

/-! ### The idiom's stores -/

/-- The instruction completes: the bytes of an item whose significance is among the ranks become those of the value, and
nothing else changes. -/
def StoresRanks (i : Instr) (s : State) (c : Config) (a : Addr) (n : Nat) (ranks : Nat → Prop) (v : DWord) : Prop :=
  ∃ t, exec i s = .next t ∧
    (∀ j, ranks j → t.byteAt (sigAddr c.bigEndian a n j) = BitVec.ofNat 8 (v.toNat / 256 ^ j)) ∧
    (∀ b : Addr, (∀ j, ranks j → b ≠ sigAddr c.bigEndian a n j) → t.byteAt b = s.byteAt b) ∧
    SameRegs s t [] ∧ SameHiLo s t ∧ SameLink s t ∧ SameRun s t

/-- The bytes of an item in its part at the top byte, by significance. -/
def TopRank (c : Config) (a : Addr) (n j : Nat) : Prop := n - 1 - topPos c a n ≤ j ∧ j < n

/-- The bytes of an item in its part at the bottom byte, by significance. -/
def BottomRank (c : Config) (a : Addr) (n j : Nat) : Prop := j < n - bottomPos c a n

section
variable {i j : Instr} {s t : State} {c : Config} {a ea : Addr} {n k : Nat} {v : DWord} {left right : BitVec 16}
  {base rt : RegIdx} {ranks : Nat → Prop}

/-- Every significance up to that of the addressed byte has its place in the left part. -/
theorem exists_inLeft (hk : k ≤ bytePos c ea n) (hn : 0 < n) : ∃ i, InLeft c ea n i ∧ byteRank c n i = k := by
  have hm := Nat.mod_lt ea.toNat hn
  refine ⟨byteRank c n k, ?_⟩
  unfold bytePos at hk
  unfold InLeft
  cases hb : c.bigEndian <;> simp only [byteRank, hb, Bool.false_eq_true, if_false, if_true, and_true] at hk ⊢ <;> omega

/-- Every significance from that of the addressed byte on has its place in the right part. -/
theorem exists_inRight (hk : bytePos c ea n ≤ k) (hkn : k < n) : ∃ i, InRight c ea n i ∧ byteRank c n i = k := by
  have hm := Nat.mod_lt ea.toNat (Nat.zero_lt_of_lt hkn)
  refine ⟨byteRank c n k, ?_⟩
  unfold bytePos at hk
  unfold InRight
  cases hb : c.bigEndian <;> simp only [byteRank, hb, Bool.false_eq_true, if_false, if_true, and_true] at hk ⊢ <;> omega

/-- A store of a part of an aligned item stores the bytes of another item, where those are the addresses of the part. -/
theorem StoresPart.storesRanks {part : Nat → Prop} {rank : Nat → Nat} (h : StoresPart i s ea n part rank v)
    (hplace : ∀ k, part k → itemOf ea n + BitVec.ofNat 64 k = sigAddr c.bigEndian a n (rank k))
    (hranks : ∀ m, ranks m ↔ ∃ k, part k ∧ rank k = m) : StoresRanks i s c a n ranks v := by
  obtain ⟨t, ht, hbytes, hother, -, regs, hiLo, link, run, -⟩ := h
  refine ⟨t, ht, fun m hm => ?_, fun b hb => hother b fun k hk => ?_, regs, hiLo, link, run⟩
  · obtain ⟨k, hk, rfl⟩ := (hranks m).mp hm
    rw [← hplace k hk, hbytes k hk]
  · rw [hplace k hk]
    exact hb _ ((hranks _).mpr ⟨k, hk, rfl⟩)

/-- An L form at the top byte stores the upper bytes of the item. -/
theorem StoresPart.top (hn : 0 < n) (h : StoresPart i s (topAddr c a n) n (InLeft c (topAddr c a n) n)
    (fun k => byteRank c n k + (n - 1 - topPos c a n)) v) : StoresRanks i s c a n (TopRank c a n) v := by
  have hm := topPos_lt (c := c) (a := a) hn
  refine h.storesRanks (fun k hk => ?_) fun m => ⟨fun ⟨hle, hlt⟩ => ?_, ?_⟩
  · obtain ⟨hle, hplace⟩ := place_left hk
    rw [hplace, Nat.zero_add, topItem_sigAddr hle hn]
  · obtain ⟨k, hk, hr⟩ := exists_inLeft (k := m - (n - 1 - topPos c a n)) (c := c) (ea := topAddr c a n) (n := n)
      (by rw [← topPos]; omega) hn
    exact ⟨k, hk, by rw [hr, Nat.sub_add_cancel hle]⟩
  · rintro ⟨k, hk, rfl⟩
    have hle : byteRank c n k ≤ topPos c a n := (place_left hk).1
    exact ⟨Nat.le_add_left _ _, by omega⟩

/-- An R form at the bottom byte stores the lower bytes of the item. -/
theorem StoresPart.bottom (h : StoresPart i s (bottomAddr c a n) n (InRight c (bottomAddr c a n) n)
    (fun k => byteRank c n k - bottomPos c a n) v) : StoresRanks i s c a n (BottomRank c a n) v := by
  refine h.storesRanks (fun k hk => ?_) fun m => ⟨fun hlt => ?_, ?_⟩
  · obtain ⟨hle, hlt, hplace⟩ := place_right hk
    rw [hplace, Nat.add_sub_cancel' hle, bottomItem_sigAddr hle hlt]
  · obtain ⟨k, hk, hr⟩ := exists_inRight (k := bottomPos c a n + m) (c := c) (ea := bottomAddr c a n) (n := n)
      (Nat.le_add_right _ _) (Nat.add_lt_of_lt_sub' hlt)
    exact ⟨k, hk, by rw [hr, Nat.add_sub_cancel_left]⟩
  · rintro ⟨k, hk, rfl⟩
    obtain ⟨hle, hlt, -⟩ := place_right hk
    exact Nat.sub_lt_sub_right hle hlt

/-- SWL at the top byte of a word. -/
theorem storesRanks_swl (h : Reaches c a 4 left right base t) (ha : Allowed c .store a 4) :
    StoresRanks (.swl rt left base) t c a 4 (TopRank c a 4) (t.reg rt) := by
  obtain ⟨rfl, htop, -⟩ := h
  obtain ⟨hswl, -⟩ := unalignedStores t rt base left
  simp only [htop] at hswl
  exact (hswl (ha.top (by decide))).top (by decide)

/-- SWR at the bottom byte of a word. -/
theorem storesRanks_swr (h : Reaches c a 4 left right base t) (ha : Allowed c .store a 4) :
    StoresRanks (.swr rt right base) t c a 4 (BottomRank c a 4) (t.reg rt) := by
  obtain ⟨rfl, -, hbottom⟩ := h
  obtain ⟨-, hswr, -⟩ := unalignedStores t rt base right
  simp only [hbottom] at hswr
  exact (hswr ha.bottom).bottom

/-- SDL at the top byte of a doubleword. -/
theorem storesRanks_sdl (h : Reaches c a 8 left right base t) (h64 : Has64 c) (ha : Allowed c .store a 8) :
    StoresRanks (.sdl rt left base) t c a 8 (TopRank c a 8) (t.reg rt) := by
  obtain ⟨rfl, htop, -⟩ := h
  obtain ⟨-, -, hsdl, -⟩ := unalignedStores t rt base left
  simp only [htop] at hsdl
  exact (hsdl h64 (ha.top (by decide))).top (by decide)

/-- SDR at the bottom byte of a doubleword. -/
theorem storesRanks_sdr (h : Reaches c a 8 left right base t) (h64 : Has64 c) (ha : Allowed c .store a 8) :
    StoresRanks (.sdr rt right base) t c a 8 (BottomRank c a 8) (t.reg rt) := by
  obtain ⟨rfl, -, hbottom⟩ := h
  obtain ⟨-, -, -, hsdr⟩ := unalignedStores t rt base right
  simp only [hbottom] at hsdr
  exact (hsdr h64 ha.bottom).bottom

/-- Two instructions complete in turn, and together they store an item and change nothing else. -/
def StoreInTurn (i j : Instr) (s : State) (a : Addr) (n : Nat) (v : DWord) : Prop :=
  ∃ t u, exec i s = .next t ∧ exec j t = .next u ∧
    (∀ k, k < n → u.byteAt (a + BitVec.ofNat 64 k) = BitVec.ofNat 8 (v.toNat / 256 ^ byteRank s.config n k)) ∧
    (∀ b : Addr, ¬WholeItem a n b → u.byteAt b = s.byteAt b) ∧
    SameRegs s u [] ∧ SameHiLo s u ∧ SameLink s u ∧ SameRun s u

/-- A place of an item, by its significance. -/
theorem place_eq_sigAddr (c : Config) (a : Addr) (hk : k < n) :
    byteRank c n k < n ∧ a + BitVec.ofNat 64 k = sigAddr c.bigEndian a n (byteRank c n k) := by
  rw [sigAddr_eq]
  unfold byteRank
  cases c.bigEndian <;> simp only [Bool.false_eq_true, if_false, if_true]
  · exact ⟨hk, trivial⟩
  · exact ⟨by omega, by rw [show n - 1 - (n - 1 - k) = k by omega]⟩

/-- A byte of an item, by its significance, is one of its bytes. -/
theorem wholeItem_sigAddr {be : Bool} (hk : k < n) : WholeItem a n (sigAddr be a n k) :=
  ⟨_, by split <;> omega, sigAddr_eq be a n k⟩

/-- Two stores of the idiom, which between them store every byte of the item: a byte that both store is the same. -/
theorem storeInTurn_of_reaches {R S : Nat → Prop} (hn : n ≤ 8) (hs : Reaches c a n left right base s)
    (hi : ∀ t, Reaches c a n left right base t → StoresRanks i t c a n R (t.reg rt))
    (hj : ∀ t, Reaches c a n left right base t → StoresRanks j t c a n S (t.reg rt))
    (hall : ∀ m, m < n ↔ R m ∨ S m) : StoreInTurn i j s a n (s.reg rt) := by
  obtain ⟨t, ht, bytes, other, regs, hiLo, link, run⟩ := hi s hs
  obtain ⟨u, hu, bytes', other', regs', hiLo', link', run'⟩ := hj t (hs.kept regs (by simp) run)
  obtain ⟨rfl, -⟩ := hs
  refine ⟨t, u, ht, hu, fun k hk => ?_, fun b hb => ?_, regs.trans regs', hiLo.trans hiLo', link.trans link',
    run.trans run'⟩
  · obtain ⟨hr, hplace⟩ := place_eq_sigAddr s.config a hk
    rw [hplace]
    by_cases hS : S (byteRank s.config n k)
    · rw [bytes' _ hS, regs rt (by simp)]
    · rw [other', bytes _ (((hall _).mp hr).resolve_right hS)]
      intro m hm he
      exact hS (sigAddr_inj _ a (by omega) hr ((hall m).mpr (.inr hm)) he ▸ hm)
  · have outside {m : Nat} (hm : m < n) : b ≠ sigAddr s.config.bigEndian a n m :=
      fun he => hb (he ▸ wholeItem_sigAddr hm)
    rw [other' b fun m hm => outside ((hall m).mpr (.inr hm)), other b fun m hm => outside ((hall m).mpr (.inl hm))]

/-- The parts at the two ends make up the item. -/
theorem lt_iff_top_or_bottom (c : Config) (a : Addr) (hd : n ∣ 2 ^ 64) (hn : 0 < n) (m : Nat) :
    m < n ↔ TopRank c a n m ∨ BottomRank c a n m := by
  have hle := bottomPos_le (c := c) (a := a) hd hn
  unfold TopRank BottomRank
  omega

end

/-- Settles O42: the two parts make up the item, and a byte in both is stored alike by either store. -/
theorem unalignedStoreIdiom : Obligations.UnalignedStoreIdiom := by
  intro s rt base first last ea far left right both
  refine ⟨fun hfar ha => ?word, fun hfar h64 ha => ?doubleword⟩
  case word =>
    have hs : Reaches s.config ea 4 left right base s := reaches_of_far hfar
    have hall := lt_iff_top_or_bottom s.config ea (n := 4) (by decide) (by decide)
    have swl t (h : Reaches s.config ea 4 left right base t) := storesRanks_swl (rt := rt) h ha
    have swr t (h : Reaches s.config ea 4 left right base t) := storesRanks_swr (rt := rt) h ha
    exact ⟨storeInTurn_of_reaches (by decide) hs swl swr hall,
      storeInTurn_of_reaches (by decide) hs swr swl fun m => (hall m).trans or_comm⟩
  case doubleword =>
    have hs : Reaches s.config ea 8 left right base s := reaches_of_far hfar
    have hall := lt_iff_top_or_bottom s.config ea (n := 8) (by decide) (by decide)
    have sdl t (h : Reaches s.config ea 8 left right base t) := storesRanks_sdl (rt := rt) h h64 ha
    have sdr t (h : Reaches s.config ea 8 left right base t) := storesRanks_sdr (rt := rt) h h64 ha
    exact ⟨storeInTurn_of_reaches (by decide) hs sdl sdr hall,
      storeInTurn_of_reaches (by decide) hs sdr sdl fun m => (hall m).trans or_comm⟩

end Sys2Proof.Machine

/-! Load linked, store conditional, PREF and SYNC (43_atomic_prefetch_sync.md): what a load linked (O46) and a store
conditional (O48) do, what keeps a load linked sequence intact (O47), and the two that change nothing (O49). -/

namespace Sys2Proof.Machine

/-! ### The sequence of R191 (b) -/

/-- A block of 2048 bytes by its number. -/
theorem blockOf_eq_iff (a : Addr) (b : BitVec 53) : blockOf a = b ↔ a.toNat / 2048 = b.toNat := by
  have ha : a.toNat / 2048 < 2 ^ 53 := by omega
  rw [← BitVec.toNat_inj, blockOf, BitVec.extractLsb'_toNat, Nat.shiftRight_eq_div_pow, Nat.mod_eq_of_lt ha]

/-- The sequence of the last load linked goes on through the instruction: it stays in its block, and stays intact exactly if
the instruction is no access and lies in that block. -/
def SequenceFollows (i : Instr) (s t : State) : Prop :=
  t.llBlock = s.llBlock ∧
    (t.llIntact = true ↔ s.llIntact = true ∧ isAccess i = false ∧ s.pc.toNat / 2048 = s.llBlock.toNat)

section
variable {i : Instr} {s u : State}

/-- An instruction that is no access leaves the sequence to the test of its block as it ends. -/
theorem sequenceFollows_of_regsOnly {w : RegIdx → Prop} (hi : isAccess i = false) (hu : RegsOnly w s u) (f : Flow) :
    SequenceFollows i s (u.retire f) := by
  have block : u.llBlock = s.llBlock := by rw [hu.eq]
  have intact : u.llIntact = s.llIntact := by rw [hu.eq]
  refine ⟨block, ?_⟩
  rw [State.retire_llIntact, intact, block, hu.pc_eq, Bool.and_eq_true, decide_eq_true_iff, blockOf_eq_iff]
  exact and_congr_right fun _ => (and_iff_right hi).symm

/-- An access ends the sequence. -/
theorem sequenceFollows_of_ended (hi : isAccess i = true) (block : u.llBlock = s.llBlock) (ended : u.llIntact = false)
    (f : Flow) : SequenceFollows i s (u.retire f) :=
  ⟨block, by simp [ended, hi]⟩

/-- An access of memory, with or without a store, ends the sequence and leaves its block. -/
theorem sequence_accessed_or_stored {m : State} (hm : m = s.accessed ∨ ∃ l v, m = s.accessed.writeLane l v) :
    m.llBlock = s.llBlock ∧ m.llIntact = false := by
  rcases hm with rfl | ⟨l, v, rfl⟩ <;> simp

end

/-- Every shape but a stop and a load linked carries the sequence on. -/
theorem Effect.sequenceFollows {i : Instr} {s t : State} (ht : Effect i s t) (hl : isLoadLinked i = false)
    (hx : t.exc = none) : SequenceFollows i s t := by
  cases ht with
  | stops => cases hx
  | computes hi u hu => exact sequenceFollows_of_regsOnly hi.1 hu .next
  | transfers hb _ f u hu => exact sequenceFollows_of_regsOnly (not_access_of_other (.inr hb)).1 hu f
  | readsHi _ hi u hu | readsLo _ hi u hu =>
    exact sequenceFollows_of_regsOnly (by rw [hi]; rfl) hu .next
  | writesHiLo hw u hu => exact sequenceFollows_of_regsOnly (not_access_of_other (.inl hw)).1 hu .next
  | accesses ha u hu => exact sequenceFollows_of_ended ha (by rw [hu.eq]; rfl) (by rw [hu.eq]; rfl) .next
  | stores hs => exact sequenceFollows_of_ended (isAccess_of_store (.inl hs)) (by simp) (by simp) .next
  | conditional hc m hm b u hu =>
    obtain ⟨block, ended⟩ := sequence_accessed_or_stored hm
    exact sequenceFollows_of_ended (isAccess_of_store (.inr hc)) (by rw [hu.eq]; exact block)
      (by rw [hu.eq]; exact ended) .next
  | links hi => rw [hl] at hi; cases hi

/-- Settles O47, by cases on whether the instruction is a load linked. -/
theorem linkSequenceIntact : Obligations.LinkSequenceIntact := by
  intro i s t h hx
  cases hl : isLoadLinked i with
  | true => exact .inl (isLoadLinked_cases hl)
  | false => exact .inr ((exec_effect h).sequenceFollows hl hx)

/-! ### Load linked (R192, R193) -/

section
variable {i : Instr} {s : State} {w : LinkWidth} {rt : RegIdx} {ea : Addr}

/-- A load linked whose address is aligned and whose bytes may all be read. -/
theorem loadLinked_eq {post : DWord → DWord} (ha : ea.toNat % linkBytes w = 0)
    (hf : Allowed s.config .load ea (linkBytes w)) :
    loadLinked s w rt ea post =
      .next (((s.linked w ea).setReg rt (post (s.readLane (Lane.whole ea (linkBytes w))))).retire .next) := by
  simp only [loadLinked, if_pos ((aligned_iff _ _).mpr ha), accessFault_whole hf]

/-- An instruction that is a load linked: after the sequence has begun, it changes its register alone. -/
theorem loadsLinked_of_loadLinked {post : DWord → DWord} {v : DWord} (h : exec i s = loadLinked s w rt ea post)
    (ha : ea.toNat % linkBytes w = 0) (hf : Allowed s.config .load ea (linkBytes w))
    (hv : post (s.readLane (Lane.whole ea (linkBytes w))) = v) : LoadsLinked i s rt v w ea := by
  rw [loadLinked_eq ha hf, hv] at h
  obtain ⟨regs, hiLo, -, mem, run, guards⟩ := onlyRegs_setReg (s.linked w ea) rt v .next
  exact ⟨_, h, setReg_retire_reg _ _ _ _, rfl, rfl, rfl, by simp, rfl, regs, hiLo, mem, run, guards, rfl, rfl, rfl⟩

end

/-- Settles O46: LL loads as LW does, LLD as LD. (`loadLinked` itself is the model's operation.) -/
theorem Atomic.loadLinked : Obligations.LoadLinked := by
  intro s rt base offset ea
  refine ⟨fun ha hf => ?ll, fun h64 ha hf => ?lld⟩
  case ll =>
    exact loadsLinked_of_loadLinked (w := .word) rfl ha hf
      (congrArg (BitVec.signExtend 64) (setWidth_readLane s ea (by decide) (by decide)))
  case lld =>
    exact loadsLinked_of_loadLinked (w := .doubleword) (exec_level_III h64 rfl) ha hf
      (readLane_whole_eq s ea (by decide))

/-! ### Whether a store conditional stores (R191 (c), R196) -/

section
variable {s t : State} {w : LinkWidth} {ea : Addr}

/-- The test of the pairing. -/
theorem State.paired_iff : s.paired w ea = true ↔ Paired s w ea := by
  simp [State.paired, Paired]

/-- The test of the strengthening. -/
theorem State.mustSucceed_iff : s.mustSucceed = true ↔ MustSucceed s := by
  simp [State.mustSucceed, MustSucceed, and_assoc]

/-- The choice of a store conditional, in a state that has drawn its bit. -/
theorem scChoice_scOk (ht : s.draws < t.draws) : ScChoice s t w ea (s.scOk w ea) := by
  by_cases hp : Paired s w ea
  · have ok : s.scOk w ea = (s.llBit && (s.mustSucceed || s.anyBit)) := if_pos (State.paired_iff.mpr hp)
    refine ⟨fun _ hb => by simp [ok, hb], fun _ hb hm => by simp [ok, hb, State.mustSucceed_iff.mpr hm], fun hfree => ?_⟩
    obtain ⟨hb, hm⟩ := hfree hp
    have hm : s.mustSucceed = false := Bool.eq_false_iff.mpr (mt State.mustSucceed_iff.mp hm)
    exact ⟨s.draws, le_refl _, ht, by simp [ok, hb, hm, State.anyBit]⟩
  · have ok : s.scOk w ea = s.anyBit := if_neg (mt State.paired_iff.mp hp)
    exact ⟨fun h => absurd h hp, fun h => absurd h hp, fun _ => ⟨s.draws, le_refl _, ht, ok⟩⟩

end

/-! ### Store conditional (R194, R195) -/

/-- Storing bytes changes memory and the list of addresses stored to alone. -/
theorem State.storeBytes_eq (l : List (Addr × Byte)) (s : State) :
    ∃ m a, s.storeBytes l = { s with mem := m, stored := a } := by
  induction l generalizing s with
  | nil => exact ⟨_, _, rfl⟩
  | cons e l ih => exact ih (s.storeByte e.1 e.2)

section
variable {i : Instr} {s : State} {w : LinkWidth} {rt : RegIdx} {ea : Addr}

/-- A link moves no more than a doubleword. -/
theorem linkBytes_le (w : LinkWidth) : linkBytes w ≤ 8 := by
  cases w <;> decide

/-- The draws and the store, if there is one, change memory, the addresses stored to, the count of draws and the record of
the sequence alone. -/
theorem State.afterChoice_eq (s : State) (w : LinkWidth) (rt : RegIdx) (ea : Addr) :
    ∃ m a, s.afterChoice w rt ea = { s with mem := m, stored := a, draws := s.draws + 2, llIntact := false } := by
  unfold State.afterChoice
  split
  · exact State.storeBytes_eq _ s.drawn.drawn.accessed
  · exact ⟨_, _, rfl⟩

/-- Where it stores, each byte of the item becomes that of the register. -/
theorem State.afterChoice_byteAt_at (hok : s.scOk w ea = true) {k : Nat} (hk : k < linkBytes w) :
    (s.afterChoice w rt ea).byteAt (ea + BitVec.ofNat 64 k) =
      BitVec.ofNat 8 ((s.reg rt).toNat / 256 ^ byteRank s.config (linkBytes w) k) := by
  rw [State.afterChoice, if_pos hok]
  exact writeLane_whole_at s.drawn.drawn.accessed ea (linkBytes_le w) (s.reg rt) hk

/-- Every byte it does not store is unchanged. -/
theorem State.afterChoice_byteAt_other {b : Addr} (hb : s.scOk w ea = true → ¬WholeItem ea (linkBytes w) b) :
    (s.afterChoice w rt ea).byteAt b = s.byteAt b := by
  unfold State.afterChoice
  split
  · next hok => exact writeLane_whole_other s.drawn.drawn.accessed ea _ (s.reg rt) (hb hok)
  · rfl

/-- The addresses of the item are stored to where it stores. -/
theorem State.afterChoice_stored (b : Addr) :
    b.toNat ∈ (s.afterChoice w rt ea).stored ↔
      b.toNat ∈ s.stored ∨ (s.scOk w ea = true ∧ WholeItem ea (linkBytes w) b) := by
  unfold State.afterChoice
  split
  · next hok =>
    exact (writeLane_whole_stored s.drawn.drawn.accessed ea _ _ b).trans (or_congr_right (and_iff_right hok).symm)
  · next hok => exact (or_iff_left fun h => hok h.1).symm

/-- A store conditional whose address is aligned and whose bytes may all be written. -/
theorem storeConditional_eq (ha : ea.toNat % linkBytes w = 0) (hf : Allowed s.config .store ea (linkBytes w)) :
    storeConditional s w rt ea =
      .next ((((s.afterChoice w rt ea).withLLbit s.drawn.anyBit).setReg rt (boolValue (s.scOk w ea))).retire .next) := by
  simp only [storeConditional, if_pos ((aligned_iff _ _).mpr ha), accessFault_whole hf, State.afterChoice]

/-- What a store conditional leaves unchanged. -/
theorem storeConditional_frame (s : State) (w : LinkWidth) (rt : RegIdx) (ea : Addr) (b : Bool) (v : DWord) :
    let t := (((s.afterChoice w rt ea).withLLbit b).setReg rt v).retire .next
    t.llAddr = s.llAddr ∧ t.llWidth = s.llWidth ∧ t.llBlock = s.llBlock ∧
      SameRegs s t [rt] ∧ SameHiLo s t ∧ SameRun s t ∧ GuardsCount s t ∧ Continues s t := by
  obtain ⟨m, a, hu⟩ := s.afterChoice_eq w rt ea
  rw [hu]
  obtain ⟨regs, hiLo, -, -, run, guards⟩ := onlyRegs_setReg s rt v .next
  exact ⟨rfl, rfl, rfl, regs, hiLo, run, guards, rfl, rfl, rfl⟩

/-- An instruction that is a store conditional: the two bits it draws are its choice and the new `LLbit`. -/
theorem storesConditionally_of_storeConditional (h : exec i s = storeConditional s w rt ea)
    (ha : ea.toNat % linkBytes w = 0) (hf : Allowed s.config .store ea (linkBytes w)) :
    StoresConditionally i s rt w ea (linkBytes w) := by
  rw [storeConditional_eq ha hf] at h
  have two_drawn : s.draws + 1 < (s.afterChoice w rt ea).draws := by
    obtain ⟨m, a, hu⟩ := s.afterChoice_eq w rt ea
    rw [hu]
    exact Nat.lt_succ_self _
  exact ⟨s.scOk w ea, _, h, scChoice_scOk (Nat.lt_of_succ_lt two_drawn), setReg_retire_reg _ _ _ _,
    fun hok _ hk => State.afterChoice_byteAt_at hok hk, fun _ hb => State.afterChoice_byteAt_other hb,
    State.afterChoice_stored, ⟨s.draws + 1, Nat.le_succ _, two_drawn, rfl⟩, storeConditional_frame s w rt ea _ _⟩

end

/-- Settles O48: SC and SCD are the store conditionals of the two widths. (`storeConditional` itself is the model's
operation.) -/
theorem Atomic.storeConditional : Obligations.StoreConditional := by
  intro s rt base offset ea
  refine ⟨fun ha hf => ?sc, fun h64 ha hf => ?scd⟩
  case sc => exact storesConditionally_of_storeConditional (w := .word) rfl ha hf
  case scd => exact storesConditionally_of_storeConditional (w := .doubleword) (exec_level_III h64 rfl) ha hf

/-! ### PREF and SYNC (R197, R198) -/

/-- Where MIPS IV executes, an instruction of level IV does as its rule says. -/
theorem exec_level_IV {i : Instr} {s : State} {k : Result} (h : HasIV s.config) (hi : exec i s = atLevel .IV s k) :
    exec i s = k := hi.trans (atLevel_eq (reserves_IV h) k)

/-- Settles O49: PREF ends the sequence of a load linked, the model's own bookkeeping, and SYNC only ends. -/
theorem prefetchAndSync : Obligations.PrefetchAndSync := by
  intro s hint base offset
  refine ⟨fun hIV => ?pref, doesNothing_of_retire rfl⟩
  case pref => exact ⟨_, exec_level_IV hIV rfl, onlyRegs_retire s.accessed .next, rfl, rfl, rfl⟩

end Sys2Proof.Machine

/-! The shifts (44_shift.md): the word shifts (O22) and the doubleword shifts (O23). A claim gives an amount and a result as
numbers; the laws of Sys2Proof/Laws/Values.lean say that they are those of the model's operations. -/

namespace Sys2Proof.Machine

/-- Settles O22: a left shift writes its result whatever the operand holds; a right shift is a word operation, whose
precondition holds or fails with the operand. -/
theorem wordShifts : Obligations.WordShifts := by
  intro s rd rt rs sa
  simp only [← amount5_eq, ← shiftLeft32_eq, ← shiftRight32_eq]
  refine ⟨?sll, ?sllv, fun hv => ?word, fun hv => ?nonWord⟩
  case sll | sllv => exact writes_of_writeResult rfl
  case word =>
    have hok := (isWordValue_iff (s.reg rt)).mpr hv
    simp only [← shiftArith32_eq hv]
    refine ⟨?srl, ?srlv, ?sra, ?srav⟩
    case srl | srlv | sra | srav => exact writes_of_wordResult rfl hok
  case nonWord =>
    have hok := mt (isWordValue_iff (s.reg rt)).mp hv
    refine ⟨?srl, ?srlv, ?sra, ?srav⟩
    case srl | srlv | sra | srav => exact writesAny_of_wordResult rfl hok

/-- Settles O23: where 64-bit operations execute, each writes the shift of all 64 bits. -/
theorem doublewordShifts : Obligations.DoublewordShifts := by
  intro s rd rt rs sa h64
  simp only [← amount6_eq, ← shiftLeft64_eq, ← shiftRight64_eq, ← shiftArith64_eq]
  refine ⟨?dsll, ?dsrl, ?dsra, ?dsll32, ?dsrl32, ?dsra32, ?dsllv, ?dsrlv, ?dsrav⟩
  case dsll | dsrl | dsra | dsll32 | dsrl32 | dsra32 | dsllv | dsrlv | dsrav =>
    exact writes_of_writeResult (exec_level_III h64 rfl)

end Sys2Proof.Machine

/-! Doubleword arithmetic, logic and conditional moves (41_alu_immediate.md, 45_alu_register.md): the doubleword operations
without a trap (O18), the logical operations and LUI (O19), and MOVZ and MOVN (O21). -/

namespace Sys2Proof.Machine

/-! ### Results modulo 2^64 (45_alu_register.md R228, R230) -/

/-- The 64-bit sum is the sum of the signed integers modulo 2^64. -/
theorem add_eq_ofInt (a b : DWord) : a + b = BitVec.ofInt 64 (a.toInt + b.toInt) := by
  rw [BitVec.ofInt_add, BitVec.ofInt_toInt, BitVec.ofInt_toInt]

/-- The 64-bit difference is the difference of the signed integers modulo 2^64. -/
theorem sub_eq_ofInt (a b : DWord) : a - b = BitVec.ofInt 64 (a.toInt - b.toInt) := by
  apply BitVec.eq_of_toInt_eq
  rw [BitVec.toInt_sub, BitVec.toInt_ofInt]

/-- Settles O18: where 64-bit operations execute, each writes its 64-bit sum or difference. -/
theorem doublewordArithmetic : Obligations.DoublewordArithmetic := by
  intro s rd rs rt imm h64
  rw [← signImm_toInt]
  simp only [← add_eq_ofInt, ← sub_eq_ofInt]
  refine ⟨?daddu, ?dsubu, ?daddiu⟩
  case daddu | dsubu | daddiu => exact writes_of_writeResult (exec_level_III h64 rfl)

/-! ### Immediates (41_alu_immediate.md R148 to R151) -/

/-- The logical operand as an unsigned number. -/
theorem zeroImm_eq_ofNat (imm : BitVec 16) : zeroImm imm = BitVec.ofNat 64 imm.toNat :=
  (BitVec.ofNat_toNat 64 imm).symm

/-- Sixteen zero bits below an immediate multiply it, as a signed integer, by 2^16. -/
theorem append_zero_toInt (imm : BitVec 16) : (imm ++ 0#16).toInt = imm.toInt * 65536 := by
  have hn : (imm ++ 0#16).toNat = imm.toNat * 65536 := by
    rw [BitVec.toNat_append, BitVec.toNat_ofNat, Nat.zero_mod, Nat.or_zero, Nat.shiftLeft_eq]
  rw [BitVec.toInt_eq_toNat_cond, BitVec.toInt_eq_toNat_cond, hn]
  split <;> split <;> omega

/-- The upper immediate as a signed integer. -/
theorem upperImm_eq_ofInt (imm : BitVec 16) : upperImm imm = BitVec.ofInt 64 (imm.toInt * 65536) := by
  rw [upperImm, sext32_eq_ofInt, append_zero_toInt]

/-- Settles O19: each writes its result, whatever the operands hold. -/
theorem logicalOperations : Obligations.LogicalOperations := by
  intro s rd rs rt imm
  rw [← zeroImm_eq_ofNat, ← upperImm_eq_ofInt]
  refine ⟨?and, ?or, ?xor, ?nor, ?andi, ?ori, ?xori, ?lui⟩
  case and | or | xor | nor | andi | ori | xori | lui => exact writes_of_writeResult rfl

/-! ### Conditional moves (45_alu_register.md R237, R238) -/

/-- Settles O21: MOVZ and MOVN test the same register, so that where the one writes its source the other only ends. -/
theorem conditionalMoves : Obligations.ConditionalMoves := by
  intro s rd rs rt hIV
  have movz := exec_level_IV (i := .movz rd rs rt) hIV rfl
  have movn := exec_level_IV (i := .movn rd rs rt) hIV rfl
  refine ⟨fun hz => ?zero, fun hnz => ?nonzero⟩
  case zero => exact ⟨writes_of_writeResult (movz.trans (if_pos hz)), doesNothing_of_retire (movn.trans (if_pos hz))⟩
  case nonzero => exact ⟨writes_of_writeResult (movn.trans (if_neg hnz)), doesNothing_of_retire (movz.trans (if_neg hnz))⟩

end Sys2Proof.Machine

/-! Multiply, divide, HI and LO (46_muldiv.md): the word multiplies (O24) and divides (O25), the doubleword forms (O26), the
results the spec leaves undefined (O27), and the moves from (O28) and to (O29) HI and LO. What each operation gives is said of
its operands alone, apart from the guards, which here are 0. -/

namespace Sys2Proof.Machine

/-! ### Multiplies and divides with no guard -/

section
variable {i : Instr} {s : State} {rs rt : RegIdx} {f : DWord → DWord → Option (DWord × DWord)}

/-- A multiply or divide whose result is defined. -/
theorem writesHiLo_of_mulDiv {hi lo : DWord} (hh : s.hiGuard = 0) (hl : s.loGuard = 0) (h : exec i s = mulDiv s rs rt f)
    (hr : f (s.reg rs) (s.reg rt) = some (hi, lo)) : WritesHiLo i s hi lo :=
  writesHiLo_of_finish (h.trans (mulDiv_eq hh hl rs rt f)) hr

/-- A multiply or divide whose result is undefined. -/
theorem writesHiLoAny_of_mulDiv (hh : s.hiGuard = 0) (hl : s.loGuard = 0) (h : exec i s = mulDiv s rs rt f)
    (hr : f (s.reg rs) (s.reg rt) = none) : WritesHiLoAny i s :=
  writesHiLoAny_of_finish (h.trans (mulDiv_eq hh hl rs rt f)) hr

end

/-! ### Products (R249, R250, R253, R254) -/

section
variable {a b : DWord}

theorem onWords_mult32 (ha : IsWord a) (hb : IsWord b) :
    onWords mult32 a b = some (sextWord (BitVec.ofInt 32 (a.toInt * b.toInt / 2 ^ 32)),
      sextWord (BitVec.ofInt 32 (a.toInt * b.toInt))) := by
  rw [onWords_eq ha hb, mult32, product32, upperHalf32_ofInt, lowerHalf32_ofInt, ha.toInt_low, hb.toInt_low]
  rfl

theorem onWords_multu32 (ha : IsWord a) (hb : IsWord b) :
    onWords multu32 a b = some (sextWord (BitVec.ofNat 32 (a.toNat % 2 ^ 32 * (b.toNat % 2 ^ 32) / 2 ^ 32)),
      sextWord (BitVec.ofNat 32 (a.toNat % 2 ^ 32 * (b.toNat % 2 ^ 32)))) := by
  rw [onWords_eq ha hb, multu32, product32, upperHalf32_ofNat, lowerHalf32_ofNat, low32_toNat, low32_toNat]
  rfl

theorem mult64_eq (a b : DWord) :
    mult64 a b = some (BitVec.ofInt 64 (a.toInt * b.toInt / 2 ^ 64), BitVec.ofInt 64 (a.toInt * b.toInt)) := by
  rw [mult64, product64, upperHalf64_ofInt, lowerHalf64_ofInt]

theorem multu64_eq (a b : DWord) :
    multu64 a b = some (BitVec.ofNat 64 (a.toNat * b.toNat / 2 ^ 64), BitVec.ofNat 64 (a.toNat * b.toNat)) := by
  rw [multu64, product64, upperHalf64_ofNat, lowerHalf64_ofNat]

/-! ### Quotients and remainders (R242, R251, R252, R255, R256) -/

/-- A word value as a signed integer is one of 32 bits. -/
theorem IsWord.fits (h : IsWord a) : FitsWord a.toInt := by
  rw [← h.toInt_low]
  exact ⟨(low32 a).le_toInt, (low32 a).toInt_lt⟩

/-- The test for the undefined quotients of words, in the terms of the operands. -/
theorem div32_undefined_iff (ha : IsWord a) (hb : IsWord b) :
    (low32 b = 0 ∨ (low32 a = 0x80000000 ∧ low32 b = 0xFFFFFFFF)) ↔
      (b = 0 ∨ (a.toInt = -2 ^ 31 ∧ b.toInt = -1)) := by
  rw [hb.low_eq_zero, eq_min32_iff, eq_minusOne32_iff, ha.toInt_low, hb.toInt_low]

/-- The test for the undefined quotients of doublewords, in the terms of the operands. -/
theorem div64_undefined_iff (a b : DWord) :
    (b = 0 ∨ (a = 0x8000000000000000 ∧ b = 0xFFFFFFFFFFFFFFFF)) ↔ (b = 0 ∨ (a.toInt = -2 ^ 63 ∧ b.toInt = -1)) := by
  rw [eq_min64_iff, eq_minusOne64_iff]

/-- Both results are words, so that sign extension keeps them. -/
theorem onWords_div32 (ha : IsWord a) (hb : IsWord b) (hb0 : b ≠ 0) (hn : ¬(a.toInt = -2 ^ 31 ∧ b.toInt = -1)) :
    onWords div32 a b = some (BitVec.ofInt 64 (a.toInt.tmod b.toInt), BitVec.ofInt 64 (a.toInt.tdiv b.toInt)) := by
  have hb0' : b.toInt ≠ 0 := fun h => hb0 (BitVec.eq_of_toInt_eq h)
  obtain ⟨quotient, remainder⟩ := division_fits ha.fits hb.fits hb0' hn
  rw [onWords_eq ha hb, div32, if_neg (mt (div32_undefined_iff ha hb).mp (not_or.mpr ⟨hb0, hn⟩)), ha.toInt_low,
    hb.toInt_low, hiLo32, sext32_ofInt quotient, sext32_ofInt remainder]

theorem onWords_divu32 (ha : IsWord a) (hb : IsWord b) (hb0 : b ≠ 0) :
    onWords divu32 a b = some (sextWord (BitVec.ofNat 32 (a.toNat % 2 ^ 32 % (b.toNat % 2 ^ 32))),
      sextWord (BitVec.ofNat 32 (a.toNat % 2 ^ 32 / (b.toNat % 2 ^ 32)))) := by
  rw [onWords_eq ha hb, divu32, if_neg (mt hb.low_eq_zero.mp hb0), low32_toNat, low32_toNat]
  rfl

theorem div64_eq (hb0 : b ≠ 0) (hn : ¬(a.toInt = -2 ^ 63 ∧ b.toInt = -1)) :
    div64 a b = some (BitVec.ofInt 64 (a.toInt.tmod b.toInt), BitVec.ofInt 64 (a.toInt.tdiv b.toInt)) :=
  if_neg (mt (div64_undefined_iff a b).mp (not_or.mpr ⟨hb0, hn⟩))

theorem divu64_eq (hb0 : b ≠ 0) :
    divu64 a b = some (BitVec.ofNat 64 (a.toNat % b.toNat), BitVec.ofNat 64 (a.toNat / b.toNat)) :=
  if_neg hb0

/-! ### Undefined results (R241, R242, D10, D11) -/

/-- Where a word form is undefined on two word values, it is undefined whether or not the operands are word values. -/
theorem onWords_eq_none {f : Word → Word → Option (DWord × DWord)}
    (h : IsWord a → IsWord b → f (low32 a) (low32 b) = none) : onWords f a b = none := by
  by_cases hw : IsWord a ∧ IsWord b
  · exact (onWords_eq hw.1 hw.2 f).trans (h hw.1 hw.2)
  · exact onWords_none hw f

theorem onWords_div32_eq_none (h : b = 0 ∨ (a.toInt = -2 ^ 31 ∧ b.toInt = -1)) : onWords div32 a b = none :=
  onWords_eq_none fun ha hb => if_pos ((div32_undefined_iff ha hb).mpr h)

theorem onWords_divu32_eq_none (h : b = 0) : onWords divu32 a b = none :=
  onWords_eq_none fun _ hb => if_pos (hb.low_eq_zero.mpr h)

theorem div64_eq_none (h : b = 0 ∨ (a.toInt = -2 ^ 63 ∧ b.toInt = -1)) : div64 a b = none :=
  if_pos ((div64_undefined_iff a b).mpr h)

theorem divu64_eq_none (h : b = 0) : divu64 a b = none := if_pos h

end

/-! ### The claims about multiplies and divides -/

/-- Settles O24, by the halves of each product. -/
theorem wordMultiply : Obligations.WordMultiply := by
  intro s rs rt hh hl ha hb
  exact ⟨writesHiLo_of_mulDiv hh hl rfl (onWords_mult32 ha hb), writesHiLo_of_mulDiv hh hl rfl (onWords_multu32 ha hb)⟩

/-- Settles O25: but for the one overflow, quotient and remainder of words are words. -/
theorem wordDivide : Obligations.WordDivide := by
  intro s rs rt hh hl ha hb hb0
  exact ⟨fun hn => writesHiLo_of_mulDiv hh hl rfl (onWords_div32 ha hb hb0 hn),
    writesHiLo_of_mulDiv hh hl rfl (onWords_divu32 ha hb hb0)⟩

/-- Settles O26: where 64-bit operations execute, each finishes with its result. -/
theorem doublewordMultiplyDivide : Obligations.DoublewordMultiplyDivide := by
  intro s rs rt h64 hh hl
  refine ⟨?dmult, ?dmultu, fun hb0 hn => ?ddiv, fun hb0 => ?ddivu⟩
  case dmult => exact writesHiLo_of_mulDiv hh hl (exec_level_III h64 rfl) (mult64_eq _ _)
  case dmultu => exact writesHiLo_of_mulDiv hh hl (exec_level_III h64 rfl) (multu64_eq _ _)
  case ddiv => exact writesHiLo_of_mulDiv hh hl (exec_level_III h64 rfl) (div64_eq hb0 hn)
  case ddivu => exact writesHiLo_of_mulDiv hh hl (exec_level_III h64 rfl) (divu64_eq hb0)

/-- Settles O27, by the ground on which each result is undefined. -/
theorem undefinedMultiplyDivide : Obligations.UndefinedMultiplyDivide := by
  intro s rs rt hh hl
  refine ⟨fun hw => ?nonWord, fun hb => ?zero, fun ha hb => ?overflow,
    fun h64 => ⟨fun hb => ?zero64, fun ha hb => ?overflow64⟩⟩
  case nonWord =>
    refine ⟨?mult, ?multu, ?div, ?divu⟩
    case mult | multu | div | divu => exact writesHiLoAny_of_mulDiv hh hl rfl (onWords_none hw _)
  case zero =>
    exact ⟨writesHiLoAny_of_mulDiv hh hl rfl (onWords_div32_eq_none (.inl hb)),
      writesHiLoAny_of_mulDiv hh hl rfl (onWords_divu32_eq_none hb)⟩
  case overflow => exact writesHiLoAny_of_mulDiv hh hl rfl (onWords_div32_eq_none (.inr ⟨ha, hb⟩))
  case zero64 =>
    exact ⟨writesHiLoAny_of_mulDiv hh hl (exec_level_III h64 rfl) (div64_eq_none (.inl hb)),
      writesHiLoAny_of_mulDiv hh hl (exec_level_III h64 rfl) (divu64_eq_none hb)⟩
  case overflow64 =>
    exact writesHiLoAny_of_mulDiv hh hl (exec_level_III h64 rfl) (div64_eq_none (.inr ⟨ha, hb⟩))

/-! ### Moves from HI and LO (R243, R245, R247) -/

/-- A move from HI or LO keeps both, marks the result as read, and writes its destination alone; the guard it then sets is
none of these fields. -/
theorem moveFrom_frame (s : State) (rd : RegIdx) (v : DWord) :
    let t := (s.setReg rd v).hiLoRead.retire .next
    t.hi = s.hi ∧ t.lo = s.lo ∧ t.hiloUnread = false ∧ SameRegs s t [rd] ∧ SameLink s t ∧ SameMem s t ∧ SameRun s t ∧
      Continues s t := by
  obtain ⟨regs, -, link, mem, run, -⟩ := onlyRegs_setReg s rd v .next
  exact ⟨rfl, rfl, rfl, regs, link, mem, run, rfl, rfl, rfl⟩

/-- Settles O28: the guard and the record are set after the end of the instruction, which counts the other guard down. -/
theorem moveFromHiLo : Obligations.MoveFromHiLo := by
  intro s rd
  refine ⟨⟨_, rfl, ?mfhi⟩, ⟨_, rfl, ?mflo⟩⟩
  case mfhi =>
    exact ⟨setReg_retire_reg s rd s.hi .next, rfl, guardStep_toNat s.loGuard, rfl, moveFrom_frame s rd s.hi⟩
  case mflo =>
    exact ⟨setReg_retire_reg s rd s.lo .next, rfl, guardStep_toNat s.hiGuard, rfl, moveFrom_frame s rd s.lo⟩

/-! ### Moves to HI and LO (R243 (b), R246, R248) -/

/-- A move to HI or LO changes these two and the count of draws alone. -/
theorem moveTo_frame (s : State) (hi lo : DWord) (d : Nat) :
    let t := State.retire { s with hi := hi, lo := lo, draws := d } .next
    t.hiloUnread = s.hiloUnread ∧ SameRegs s t [] ∧ SameLink s t ∧ SameMem s t ∧ SameRun s t ∧ GuardsCount s t ∧
      Continues s t := by
  obtain ⟨regs, -, link, mem, run, guards⟩ := onlyRegs_retire s .next
  exact ⟨rfl, regs, link, mem, run, guards, rfl, rfl, rfl⟩

/-- With no guard MTHI writes HI, and LO becomes the next free value over a result that nothing has read. -/
theorem exec_mthi {s : State} (hg : s.hiGuard = 0) (rs : RegIdx) :
    (s.hiloUnread = false → exec (.mthi rs) s = .next ((s.withHi (s.reg rs)).retire .next)) ∧
      (s.hiloUnread = true →
        exec (.mthi rs) s = .next (((s.drawn.withLo s.anyWord).withHi (s.reg rs)).retire .next)) := by
  have h : exec (.mthi rs) s = _ := guardHi_eq hg fun t =>
    .next (((if t.hiloUnread then t.drawn.withLo t.anyWord else t).withHi (t.reg rs)).retire .next)
  exact ⟨fun hu => by rw [h, hu]; rfl, fun hu => by rw [h, hu]; rfl⟩

/-- With no guard MTLO writes LO, and HI becomes the next free value over a result that nothing has read. -/
theorem exec_mtlo {s : State} (hg : s.loGuard = 0) (rs : RegIdx) :
    (s.hiloUnread = false → exec (.mtlo rs) s = .next ((s.withLo (s.reg rs)).retire .next)) ∧
      (s.hiloUnread = true →
        exec (.mtlo rs) s = .next (((s.drawn.withHi s.anyWord).withLo (s.reg rs)).retire .next)) := by
  have h : exec (.mtlo rs) s = _ := guardLo_eq hg fun t =>
    .next (((if t.hiloUnread then t.drawn.withHi t.anyWord else t).withLo (t.reg rs)).retire .next)
  exact ⟨fun hu => by rw [h, hu]; rfl, fun hu => by rw [h, hu]; rfl⟩

/-- Settles O29, by cases on whether a result has been left unread. -/
theorem moveToHiLo : Obligations.MoveToHiLo := by
  intro s rs
  have fresh : ∃ n, s.draws ≤ n ∧ n < s.draws + 1 ∧ s.anyWord = Config.freeWord n :=
    ⟨s.draws, le_refl _, Nat.lt_succ_self _, rfl⟩
  refine ⟨fun hg => ?mthi, fun hg => ?mtlo⟩
  case mthi =>
    obtain ⟨read, unread⟩ := exec_mthi hg rs
    by_cases hu : s.hiloUnread = true
    · exact ⟨_, unread hu, rfl, ⟨fun h => absurd h (by simp [hu]), fun _ => fresh⟩, moveTo_frame s _ _ _⟩
    · exact ⟨_, read (Bool.eq_false_iff.mpr hu), rfl, ⟨fun _ => rfl, fun h => absurd h hu⟩, moveTo_frame s _ _ _⟩
  case mtlo =>
    obtain ⟨read, unread⟩ := exec_mtlo hg rs
    by_cases hu : s.hiloUnread = true
    · exact ⟨_, unread hu, rfl, ⟨fun h => absurd h (by simp [hu]), fun _ => fresh⟩, moveTo_frame s _ _ _⟩
    · exact ⟨_, read (Bool.eq_false_iff.mpr hu), rfl, ⟨fun _ => rfl, fun h => absurd h hu⟩, moveTo_frame s _ _ _⟩

end Sys2Proof.Machine

/-! Traps, system call and breakpoint (47_trap_system.md): SYSCALL and BREAK (O10), and the conditional traps (O11). A trap on
two registers and its immediate form make one comparison, with another second operand (R260, R262). -/

namespace Sys2Proof.Machine

/-! ### At least, by the complementary test (R264, R265, R270, R271) -/

/-- At least, as signed numbers, is the complement of the test TLT makes. -/
theorem not_ltSigned_iff (a b : DWord) : (!ltSigned a b) = true ↔ a.toInt ≥ b.toInt :=
  not_iff_of_iff (ltSigned_iff a b) not_lt.symm

/-- At least, as unsigned numbers, is the complement of the test TLTU makes. -/
theorem not_ltUnsigned_iff (a b : DWord) : (!ltUnsigned a b) = true ↔ a.toNat ≥ b.toNat :=
  not_iff_of_iff (ltUnsigned_iff a b) not_lt.symm

/-! ### The claims about traps, system call and breakpoint -/

/-- Settles O10: the meaning of each is the exception itself, with no test before it. -/
theorem systemCallAndBreakRaise : Obligations.SystemCallAndBreakRaise := by
  intro s code
  exact ⟨raises_of_raise rfl, raises_of_raise rfl⟩

/-- Settles O11, by the comparison each trap and its immediate form make. -/
theorem conditionalTraps : Obligations.ConditionalTraps := by
  intro s rs rt code imm
  refine ⟨?tge, ?tgeu, ?tlt, ?tltu, ?teq, ?tne, ?tgei, ?tgeiu, ?tlti, ?tltiu, ?teqi, ?tnei⟩
  case tge | tgei => exact traps_of_trapIf rfl (not_ltSigned_iff _ _)
  case tgeu | tgeiu => exact traps_of_trapIf rfl (not_ltUnsigned_iff _ _)
  case tlt | tlti => exact traps_of_trapIf rfl (ltSigned_iff _ _)
  case tltu | tltiu => exact traps_of_trapIf rfl (ltUnsigned_iff _ _)
  case teq | teqi => exact traps_of_trapIf rfl (equal_iff _ _)
  case tne | tnei => exact traps_of_trapIf rfl (not_equal_iff _ _)

end Sys2Proof.Machine

/-! Exceptions and the run as a whole (60_exceptions.md, 48_non_cpu.md, 70_reset_and_hazards.md R341): precise exceptions (O8),
those of the fetch (O6), of a coprocessor (O12) and of the rho opcode (O13), what every step keeps (O57), the launch states
(O59), and the item that holds an address (O34). -/

namespace Sys2Proof.Machine

/-! ### Precise exceptions (60_exceptions.md R308, R310, R311) -/

/-- Every shape of a next state but a stop leaves the record of exceptions as it was. -/
theorem Effect.exc_eq_or_stops {i : Instr} {s t : State} (ht : Effect i s t) :
    t.exc = s.exc ∨ ∃ e, t = { s with exc := some (s.recordOf e), draws := t.draws } := by
  cases ht with
  | stops e => exact .inr ⟨e, rfl⟩
  | computes _ u hu | accesses _ u hu | links _ _ _ _ u hu | transfers _ _ _ u hu | readsHi _ _ u hu
  | readsLo _ _ u hu | writesHiLo _ u hu => exact .inl hu.exc_eq
  | stores => exact .inl (by simp)
  | conditional _ m hm b u hu =>
    refine .inl (hu.exc_eq.trans ?_)
    rcases hm with rfl | ⟨l, v, rfl⟩ <;> simp

/-- A step that ends with a record has stopped in the state it began in: at the fetch, or in the instruction fetched. -/
theorem step_stops {s t : State} {r : ExceptionRecord} (h : step s = .next t) (hr : t.exc = some r) :
    ∃ e, t = { s with exc := some (s.recordOf e), draws := t.draws } := by
  obtain ⟨hx, ⟨_, rfl⟩ | ⟨_, e, _, rfl⟩ | ⟨_, _, _, i, _, hi⟩⟩ := step_next h
  · exact ⟨_, rfl⟩
  · exact ⟨e, rfl⟩
  · rcases (exec_effect hi).exc_eq_or_stops with he | he
    · rw [hr, hx] at he; cases he
    · exact he

/-- A machine that has stopped takes no step (R310). -/
theorem step_halted {s : State} {r : ExceptionRecord} (h : s.exc = some r) : step s = .fault .halted := by
  rw [step, fetchAndRun, h]
  rfl

/-- Settles O8: only a stop sets the record, and it is that of the state before. -/
theorem exceptionsArePrecise : Obligations.ExceptionsArePrecise := by
  intro s t r h hr
  refine ⟨?_, step_halted hr⟩
  obtain ⟨e, ht⟩ := step_stops h hr
  have hrec : s.recordOf e = r := Option.some.inj ((congrArg State.exc ht).symm.trans hr)
  rw [← hrec]
  exact ht

/-! ### The exceptions of the fetch (60_exceptions.md R303 (b), R304, R309) -/

/-- A fetch from a misaligned `pc` raises Address Error. -/
theorem step_misaligned {s : State} (hx : s.exc = none) (ha : s.pc.toNat % 4 ≠ 0) :
    step s = s.raise (.addressErrorLoad s.pc) := by
  rw [step, fetchAndRun, hx, (aligned_eq_false _ _).mpr ha]
  rfl

/-- A fetch that the address map denies raises what the map says. -/
theorem step_denied {s : State} {e : Exception} (hx : s.exc = none) (ha : s.pc.toNat % 4 = 0)
    (hd : Denied s.config .fetch (WholeItem s.pc 4) s.pc e) : step s = s.raise e := by
  rw [step, fetchAndRun, hx, (aligned_iff _ _).mpr ha, accessFault_denied s.mem_fetchAddrs hd]
  rfl

/-- Settles O6: the test of the alignment stands before that of the address. -/
theorem fetchExceptions : Obligations.FetchExceptions :=
  fun _ hx => ⟨step_misaligned hx, fun _ => step_denied hx⟩

/-! ### Coprocessors (48_non_cpu.md R281, R293, R297) -/

/-- An operation of coprocessor `z`, by the setting of `CU[z]`. -/
theorem exec_coprocessor {i : Instr} {s : State} {z : Fin 4} (h : exec i s = coprocessor s z) :
    (s.config.cu[z] = false → Raises i s (.coprocessorUnusable z)) ∧
      (s.config.cu[z] = true → exec i s = .refused (.coprocessorEnabled z)) := by
  refine ⟨fun hc => raises_of_raise ?_, fun hc => ?_⟩
  · rw [h, coprocessor, hc]; rfl
  · rw [h, coprocessor, hc]; rfl

/-- Settles O12: each entry is an operation of its coprocessor, two of them in mode IV only. -/
theorem coprocessorEntries : Obligations.CoprocessorEntries := by
  intro s x y r q m entry
  refine ⟨?cop0, ?cop1, ?cop2, ?lwc1, ?lwc2, ?swc1, ?swc2, ?ldc1, ?ldc2, ?sdc1, ?sdc2, fun hIV => ⟨?cop1x, ?movci⟩⟩
  case cop1x | movci => exact exec_coprocessor (exec_level_IV hIV rfl)
  all_goals exact exec_coprocessor rfl

/-- The rho opcode, by its parameter (R293, D6). -/
theorem exec_rho (s : State) (r q : RegIdx) (m : BitVec 16) :
    (s.config.rhoIsCop0 = false → exec (.rho r m q) s = s.raise .reservedInstruction) ∧
      (s.config.rhoIsCop0 = true → exec (.rho r m q) s = coprocessor s 0) := by
  refine ⟨fun h => ?_, fun h => ?_⟩
  · rw [exec, execRho, h]; rfl
  · rw [exec, execRho, h]; rfl

/-- Settles O13, by the parameter and then by the setting of `CU[0]`. -/
theorem rhoEntry : Obligations.RhoEntry := by
  intro s r q m
  obtain ⟨reserved, cop0⟩ := exec_rho s r q m
  exact ⟨fun h => raises_of_raise (reserved h), fun h => (exec_coprocessor (cop0 h)).1,
    fun h => (exec_coprocessor (cop0 h)).2⟩

/-! ### What every step keeps (70_reset_and_hazards.md R341) -/

/-- A change of general registers alone keeps the parameters and never takes a draw back. -/
theorem RegsOnly.config_draws {w : RegIdx → Prop} {s u : State} (h : RegsOnly w s u) :
    u.config = s.config ∧ s.draws ≤ u.draws := ⟨by rw [h.eq], h.draws⟩

/-- So does every shape of a next state. -/
theorem Effect.config_draws {i : Instr} {s t : State} (ht : Effect i s t) : t.config = s.config ∧ s.draws ≤ t.draws := by
  cases ht with
  | stops e d hd => exact ⟨rfl, hd⟩
  | computes _ u hu | accesses _ u hu | links _ _ _ _ u hu | transfers _ _ _ u hu | readsHi _ _ u hu
  | readsLo _ _ u hu | writesHiLo _ u hu => exact hu.config_draws
  | stores => simp
  | conditional _ m hm b u hu => rcases hm with rfl | ⟨l, v, rfl⟩ <;> simpa using hu.config_draws

/-- Settles O57: a step stops at the fetch, or runs an instruction. -/
theorem parametersFixed : Obligations.ParametersFixed := by
  intro s t h
  obtain ⟨_, ⟨_, rfl⟩ | ⟨_, e, _, rfl⟩ | ⟨_, _, _, i, _, hi⟩⟩ := step_next h
  · exact ⟨rfl, le_refl _⟩
  · exact ⟨rfl, le_refl _⟩
  · exact (exec_effect hi).config_draws

/-! ### Launch states (70_reset_and_hazards.md R341) -/

/-- At launch nothing has been stored, read or linked, and `npc` follows `pc`. -/
theorem State.IsLaunch.inv {s : State} (h : s.IsLaunch) : s.Inv where
  mem_wf := h.mem_wf
  stored_rising := by rw [h.nothing_stored]; rfl
  stored_listed := by simp [h.nothing_stored]
  zero_slot := h.zero_slot
  hi_guard := by simp [h.hi_guard]
  lo_guard := by simp [h.lo_guard]
  straight _ := by rw [h.npc_entry, h.pc_entry]
  slot_aligned := by simp [h.no_slot]
  link_aligned := by simp [h.no_link]
  hi_window := by simp [h.no_hi_reads]
  lo_window := by simp [h.no_lo_reads]
  record := by simp [h.running]

/-- The entry point of the default parameters may be fetched from. -/
theorem entry_allowed : Allowed Config.default .fetch Config.default.entryPC 4 := by
  unfold Allowed
  decide

/-- The reset state is a launch state, at the model's values (log entries 2 to 4). -/
theorem State.reset_isLaunch : State.reset.IsLaunch where
  pc_entry := rfl
  entry_aligned := by decide
  entry_valid := entry_allowed
  npc_entry := rfl
  no_slot := rfl
  hi_guard := rfl
  lo_guard := rfl
  hilo_read := rfl
  zero_slot := by simp [State.reset, State.launch]
  mem_wf := rfl
  nothing_stored := rfl
  no_link := rfl
  no_hi_reads := rfl
  no_lo_reads := rfl
  running := rfl

/-- Settles O59. -/
theorem invariantAtLaunch : Obligations.InvariantAtLaunch := ⟨fun _ => State.IsLaunch.inv, State.reset_isLaunch⟩

/-! ### Items (42_load_store.md section 3) -/

/-- Settles O34: the item starts at the address rounded down to a multiple of the size. -/
theorem itemHoldsAddress : Obligations.ItemHoldsAddress := by
  intro a n hn
  rw [itemOf_toNat]
  exact ⟨Nat.mul_mod_left _ _, Nat.div_mul_le_self _ _, Nat.lt_div_mul_add hn⟩

end Sys2Proof.Machine

/-! The hazard of HI and LO (70_reset_and_hazards.md R350): a guarded write is refused (O30), or goes on over replaced
destinations under the alternative (O31), and the windows that tell which destinations those are follow the run (O32; log
entry 12). -/

namespace Sys2Proof.Machine

/-! ### The refusal (D17) -/

/-- A multiply or divide is tested against both guards. -/
theorem mulDiv_refused {s : State} (hz : s.config.hiLoHazard = .refuse) (hg : s.hiGuard ≠ 0 ∨ s.loGuard ≠ 0)
    (rs rt : RegIdx) (f : DWord → DWord → Option (DWord × DWord)) : mulDiv s rs rt f = .refused .hiLoHazard := by
  rw [mulDiv]
  by_cases hh : s.hiGuard = 0
  · rw [guardHi_eq hh, guardLo_refused (hg.resolve_left (not_not.mpr hh)) hz]
  · exact guardHi_refused hh hz _

/-- MTHI past its guard test. -/
def moveToHi (rs : RegIdx) (s : State) : Result :=
  .next (((if s.hiloUnread then s.drawn.withLo s.anyWord else s).withHi (s.reg rs)).retire .next)

/-- MTLO past its guard test. -/
def moveToLo (rs : RegIdx) (s : State) : Result :=
  .next (((if s.hiloUnread then s.drawn.withHi s.anyWord else s).withLo (s.reg rs)).retire .next)

theorem exec_mthi_guarded (s : State) (rs : RegIdx) : exec (.mthi rs) s = guardHi s (moveToHi rs) := rfl

theorem exec_mtlo_guarded (s : State) (rs : RegIdx) : exec (.mtlo rs) s = guardLo s (moveToLo rs) := rfl

/-- Settles O30: the test of the guards stands before all else but the level. -/
theorem hiLoHazardRefused : Obligations.HiLoHazardRefused := by
  intro s rs rt hz refused
  refine ⟨fun hg => (exec_mthi_guarded s rs).trans (guardHi_refused hg hz _),
    fun hg => (exec_mtlo_guarded s rs).trans (guardLo_refused hg hz _), fun hg => ?_⟩
  have both := mulDiv_refused hz hg rs rt
  exact ⟨both _, both _, both _, both _, fun h64 => ⟨(exec_level_III h64 rfl).trans (both _),
    (exec_level_III h64 rfl).trans (both _), (exec_level_III h64 rfl).trans (both _),
    (exec_level_III h64 rfl).trans (both _)⟩⟩

/-! ### The alternative: what goes on -/

/-- The value is a free one drawn between the states (00_scope.md R11 `any`). -/
def FreshAt (s t : State) (v : DWord) (n : Nat) : Prop := s.draws ≤ n ∧ n < t.draws ∧ v = Config.freeWord n

/-- A write of HI or LO goes on over replaced destinations, and changes no more than HI, LO and `hiloUnread` besides: what
`Obligations.HiLoHazardAny` says of each of the ten. -/
def GoesOn (i : Instr) (s : State) (unread : Bool) (result : State → Prop) : Prop :=
  ∃ t, exec i s = .next t ∧ HazardsReplaced i s t ∧ result t ∧ t.hiloUnread = unread ∧ SameLink s t ∧ SameMem s t ∧
    SameRun s t ∧ GuardsCount s t ∧ Continues s t

section
variable {i : Instr} {s u : State}

/-- The end of such a write, from the state `u` in which the destinations have been replaced. -/
theorem goesOn_of_replaced (hu : Replaced (Hazarded i s) s u) {hi lo : DWord} {b : Bool} {d : Nat} (hd : u.draws ≤ d)
    {result : State → Prop}
    (h : exec i s = .next (State.retire { u with hi := hi, lo := lo, hiloUnread := b, draws := d } .next))
    (hr : result (State.retire { u with hi := hi, lo := lo, hiloUnread := b, draws := d } .next)) :
    GoesOn i s b result := by
  obtain ⟨-, -, -, npc, -, llBit, llAddr, llWidth, -, llBlock, hiGuard, loGuard, -, mem, stored, exc, config⟩ :=
    hu.regs.same
  refine ⟨_, h, ⟨hu.regs.regs, fun r h0 hz => ?_⟩, hr, rfl, ⟨llBit, llAddr, llWidth, llBlock⟩,
    ⟨State.byteAt_congr mem, stored⟩, ⟨exc, config⟩, guardsCount_retire .next hiGuard loGuard, continues_retire npc⟩
  obtain ⟨n, hn, hlt, hv⟩ := hu.fresh r h0 hz
  exact ⟨n, hn, hlt.trans_le hd, hv⟩

/-- A multiply or divide goes on with the result of the operands it reads after the replacements, and with two different
free values where that is undefined. -/
theorem goesOn_of_mulDiv {rs rt : RegIdx} {f : DWord → DWord → Option (DWord × DWord)}
    {defined : DWord → DWord → Prop} {hi lo : DWord → DWord → DWord} (hw : writesHi i = true ∧ writesLo i = true)
    (hz : s.config.hiLoHazard = .destinationAny) (h : exec i s = mulDiv s rs rt f)
    (hf : ∀ a b, defined a b → f a b = some (hi a b, lo a b)) (hn : ∀ a b, ¬defined a b → f a b = none) :
    GoesOn i s true fun t =>
      (defined (t.reg rs) (t.reg rt) → t.hi = hi (t.reg rs) (t.reg rt) ∧ t.lo = lo (t.reg rs) (t.reg rt)) ∧
      (¬defined (t.reg rs) (t.reg rt) → ∃ n m, n ≠ m ∧ FreshAt s t t.hi n ∧ FreshAt s t t.lo m) := by
  obtain ⟨u, hu, hgoes⟩ := mulDiv_goes hw.1 hw.2 hz rs rt f
  have hfinish := h.trans hgoes
  by_cases hd : defined (u.reg rs) (u.reg rt)
  · rw [hf _ _ hd] at hfinish
    exact goesOn_of_replaced hu (le_refl _) hfinish ⟨fun _ => ⟨rfl, rfl⟩, fun hnd => absurd hd hnd⟩
  · rw [hn _ _ hd] at hfinish
    have drawn := hu.regs.draws
    refine goesOn_of_replaced hu (Nat.le_add_right _ 2) hfinish ⟨fun hd' => absurd hd' hd, fun _ =>
      ⟨u.draws, u.draws + 1, by omega, ⟨drawn, ?_, rfl⟩, ⟨by omega, ?_, rfl⟩⟩⟩
    · exact Nat.lt_add_of_pos_right (by decide)
    · exact Nat.lt_succ_self _

/-- MTHI is hazarded by the reads of HI alone. -/
theorem hazarded_mthi (rs r : RegIdx) : (s.hiGuard ≠ 0 ∧ s.hiReads.Holds r) ↔ Hazarded (.mthi rs) s r := by
  simp [Hazarded, writesHi, writesLo]

/-- MTLO is hazarded by the reads of LO alone. -/
theorem hazarded_mtlo (rs r : RegIdx) : (s.loGuard ≠ 0 ∧ s.loReads.Holds r) ↔ Hazarded (.mtlo rs) s r := by
  simp [Hazarded, writesHi, writesLo]

/-- What a move to HI or LO does to the other register: it becomes a free value over a result that nothing has read. -/
def OtherAfter (s t : State) (old new : DWord) : Prop :=
  (s.hiloUnread = false → new = old) ∧ (s.hiloUnread = true → ∃ n, FreshAt s t new n)

/-- Where the last result has been read, the other register stays. -/
theorem OtherAfter.kept {t : State} {v : DWord} (h : s.hiloUnread = false) : OtherAfter s t v v :=
  ⟨fun _ => rfl, fun hu => absurd (h.symm.trans hu) (by decide)⟩

/-- Where it has not, the other register becomes the value of the draw made. -/
theorem OtherAfter.drawn {t : State} {old : DWord} (h : s.hiloUnread = true) (hs : s.draws ≤ u.draws)
    (ht : u.draws < t.draws) : OtherAfter s t old u.anyWord :=
  ⟨fun hu => absurd (h.symm.trans hu) (by decide), fun _ => ⟨u.draws, hs, ht, rfl⟩⟩

/-- MTHI goes on, with the value its register has after the replacements. -/
theorem goesOn_mthi (hz : s.config.hiLoHazard = .destinationAny) (rs : RegIdx) :
    GoesOn (.mthi rs) s s.hiloUnread fun t => t.hi = t.reg rs ∧ OtherAfter s t s.lo t.lo := by
  obtain ⟨u, hu, hgoes⟩ := guardHi_goes hz
  replace hu := hu.congr (hazarded_mthi rs)
  obtain ⟨-, lo, -, -, -, -, -, -, -, -, -, -, unread, -⟩ := hu.regs.same
  have h := (exec_mthi_guarded s rs).trans (hgoes _)
  unfold moveToHi at h
  rw [← unread, ← lo]
  by_cases hb : u.hiloUnread = true
  · rw [if_pos hb] at h
    exact goesOn_of_replaced hu (Nat.le_succ _) h ⟨rfl, .drawn (unread ▸ hb) hu.regs.draws (Nat.lt_succ_self _)⟩
  · rw [if_neg hb] at h
    exact goesOn_of_replaced hu (le_refl _) h ⟨rfl, .kept (unread ▸ Bool.eq_false_iff.mpr hb)⟩

/-- MTLO goes on, with the value its register has after the replacements. -/
theorem goesOn_mtlo (hz : s.config.hiLoHazard = .destinationAny) (rs : RegIdx) :
    GoesOn (.mtlo rs) s s.hiloUnread fun t => t.lo = t.reg rs ∧ OtherAfter s t s.hi t.hi := by
  obtain ⟨u, hu, hgoes⟩ := guardLo_goes hz
  replace hu := hu.congr (hazarded_mtlo rs)
  obtain ⟨hi, -, -, -, -, -, -, -, -, -, -, -, unread, -⟩ := hu.regs.same
  have h := (exec_mtlo_guarded s rs).trans (hgoes _)
  unfold moveToLo at h
  rw [← unread, ← hi]
  by_cases hb : u.hiloUnread = true
  · rw [if_pos hb] at h
    exact goesOn_of_replaced hu (Nat.le_succ _) h ⟨rfl, .drawn (unread ▸ hb) hu.regs.draws (Nat.lt_succ_self _)⟩
  · rw [if_neg hb] at h
    exact goesOn_of_replaced hu (le_refl _) h ⟨rfl, .kept (unread ▸ Bool.eq_false_iff.mpr hb)⟩

end

/-- Settles O31: each result is that of the unguarded operation (O24 to O27), on the operands after the replacements. -/
theorem hiLoHazardAny : Obligations.HiLoHazardAny := by
  intro s rs rt hz fresh goes other gives words low
  have result {i : Instr} {f : DWord → DWord → Option (DWord × DWord)} {defined : DWord → DWord → Prop}
      {hi lo : DWord → DWord → DWord} (hw : writesHi i = true ∧ writesLo i = true) (h : exec i s = mulDiv s rs rt f)
      (hf : ∀ a b, defined a b → f a b = some (hi a b, lo a b)) (hn : ∀ a b, ¬defined a b → f a b = none) :
      gives i defined hi lo := goesOn_of_mulDiv (defined := defined) (hi := hi) (lo := lo) hw hz h hf hn
  clear_value gives
  refine ⟨goesOn_mthi hz rs, goesOn_mtlo hz rs, ?mult, ?multu, ?div, ?divu, fun h64 => ⟨?dmult, ?dmultu, ?ddiv, ?ddivu⟩⟩
  case mult =>
    exact result ⟨rfl, rfl⟩ rfl (fun _ _ ⟨ha, hb⟩ => onWords_mult32 ha hb) fun _ _ hw => onWords_none hw _
  case multu =>
    exact result ⟨rfl, rfl⟩ rfl (fun _ _ ⟨ha, hb⟩ => onWords_multu32 ha hb) fun _ _ hw => onWords_none hw _
  case div =>
    exact result ⟨rfl, rfl⟩ rfl (fun _ _ ⟨⟨ha, hb⟩, hb0, hn⟩ => onWords_div32 ha hb hb0 hn) fun _ _ hd =>
      onWords_eq_none fun ha hb => if_pos ((div32_undefined_iff ha hb).mpr (or_iff_not_and_not.mpr fun h => hd ⟨⟨ha, hb⟩, h⟩))
  case divu =>
    exact result ⟨rfl, rfl⟩ rfl (fun _ _ ⟨⟨ha, hb⟩, hb0⟩ => onWords_divu32 ha hb hb0) fun _ _ hd =>
      onWords_eq_none fun ha hb => if_pos (hb.low_eq_zero.mpr (not_not.mp fun h => hd ⟨⟨ha, hb⟩, h⟩))
  case dmult => exact result ⟨rfl, rfl⟩ (exec_level_III h64 rfl) (fun _ _ _ => mult64_eq _ _) fun _ _ hd => (hd trivial).elim
  case dmultu =>
    exact result ⟨rfl, rfl⟩ (exec_level_III h64 rfl) (fun _ _ _ => multu64_eq _ _) fun _ _ hd => (hd trivial).elim
  case ddiv =>
    exact result ⟨rfl, rfl⟩ (exec_level_III h64 rfl) (fun _ _ ⟨hb0, hn⟩ => div64_eq hb0 hn) fun _ _ hd =>
      div64_eq_none (or_iff_not_and_not.mpr hd)
  case ddivu =>
    exact result ⟨rfl, rfl⟩ (exec_level_III h64 rfl) (fun _ _ hb0 => divu64_eq hb0) fun _ _ hb => divu64_eq_none (not_not.mp hb)

/-! ### The windows of reads (log entry 12) -/

/-- The window of reads by `read` follows one instruction: what `Obligations.ReadWindowsFollow` says of each window. -/
def WindowFollows (i : Instr) (s t : State) (read : RegIdx → Instr) (old new : ReadWindow) : Prop :=
  (∀ r, new.last = some r ↔ i = read r ∧ r ≠ 0) ∧
    (∀ r, new.prev = some r → old.last = some r ∧ t.reg r = s.reg r) ∧
    (∀ r, old.last = some r → destination i ≠ some r → ¬Hazarded i s r → new.prev = some r)

section
variable {i : Instr} {s t u : State} {w : RegIdx → Prop} {read : RegIdx → Instr}

/-- A window whose newest entry moves on, past changes of the destination and of hazarded registers alone, is followed. -/
theorem ReadWindow.Follows.window {old mid new : ReadWindow} (h : ReadWindow.Follows w s u old mid)
    (hw : ∀ r, w r → destination i = some r ∨ Hazarded i s r) (hreg : ∀ r, t.reg r = u.reg r)
    (hlast : ∀ r, new.last = some r ↔ i = read r ∧ r ≠ 0) (hprev : new.prev = mid.last) :
    WindowFollows i s t read old new := by
  refine ⟨hlast, fun r hr => ?_, fun r hr hd hz => ?_⟩
  · rw [hreg]
    exact h.last_held r (hprev ▸ hr)
  · rw [hprev]
    exact h.last_kept r hr fun hwr => (hw r hwr).elim hd hz

/-- The newest entry of an instruction that is no read. -/
theorem shift_last_iff (hi : ∀ r, i ≠ read r) (q : ReadWindow) (r : RegIdx) :
    q.shift.last = some r ↔ i = read r ∧ r ≠ 0 :=
  ⟨fun h => (by cases h), fun h => absurd h.1 (hi r)⟩

/-- The newest entry of a read, which leaves register 0 out. -/
theorem read_last_iff (hinj : Function.Injective read) (rd r : RegIdx) :
    (if rd = 0 then none else some rd) = some r ↔ read rd = read r ∧ r ≠ 0 := by
  rw [hinj.eq_iff]
  split
  · next h0 => exact ⟨fun h => (by cases h), fun ⟨hr, hne⟩ => absurd (hr.symm.trans h0) hne⟩
  · next h0 => exact ⟨fun h => (by cases h; exact ⟨rfl, h0⟩), fun ⟨hr, _⟩ => congrArg some hr⟩

/-- Both windows are followed. -/
def WindowsFollow (i : Instr) (s t : State) : Prop :=
  WindowFollows i s t .mfhi s.hiReads t.hiReads ∧ WindowFollows i s t .mflo s.loReads t.loReads

/-- MFHI puts its destination into the window of HI, and moves that of LO on. -/
theorem mfhi_windowsFollow {rd : RegIdx} (h : exec (.mfhi rd) s = .next t) : WindowsFollow (.mfhi rd) s t := by
  obtain rfl := Host.Outcome.next.inj h
  have hu := RegsOnly.setNamed (i := .mfhi rd) s rfl s.hi
  exact ⟨hu.hi_window.window (fun _ => .inl) (fun _ => rfl) (read_last_iff (fun _ _ h => by cases h; rfl) rd) rfl,
    hu.lo_window.window (fun _ => .inl) (fun _ => rfl) (shift_last_iff (fun _ h => by cases h) _) rfl⟩

/-- MFLO puts its destination into the window of LO, and moves that of HI on. -/
theorem mflo_windowsFollow {rd : RegIdx} (h : exec (.mflo rd) s = .next t) : WindowsFollow (.mflo rd) s t := by
  obtain rfl := Host.Outcome.next.inj h
  have hu := RegsOnly.setNamed (i := .mflo rd) s rfl s.lo
  exact ⟨hu.hi_window.window (fun _ => .inl) (fun _ => rfl) (shift_last_iff (fun _ h => by cases h) _) rfl,
    hu.lo_window.window (fun _ => .inl) (fun _ => rfl) (read_last_iff (fun _ _ h => by cases h; rfl) rd) rfl⟩

/-- Any other instruction changes its destination and hazarded registers alone, from a state `m` that has the registers and
windows of the first, and moves both windows on as it ends. -/
theorem windowsFollow_of_regsOnly {m : State} (hhi : ∀ rd, i ≠ .mfhi rd) (hlo : ∀ rd, i ≠ .mflo rd)
    (hu : RegsOnly w m u) (hw : ∀ r, w r → destination i = some r ∨ Hazarded i s r)
    (hm : m.hiReads = s.hiReads ∧ m.loReads = s.loReads ∧ ∀ r, m.reg r = s.reg r)
    (ht : t.hiReads = u.hiReads.shift ∧ t.loReads = u.loReads.shift ∧ ∀ r, t.reg r = u.reg r) : WindowsFollow i s t := by
  obtain ⟨mhi, mlo, mreg⟩ := hm
  obtain ⟨thi, tlo, treg⟩ := ht
  have base (q : ReadWindow) : ReadWindow.Follows w s m q q := .refl mreg q
  have hi := (base m.hiReads).trans hu.hi_window
  have lo := (base m.loReads).trans hu.lo_window
  rw [mhi] at hi
  rw [mlo] at lo
  rw [WindowsFollow, thi, tlo]
  exact ⟨hi.window hw treg (shift_last_iff hhi _) rfl, lo.window hw treg (shift_last_iff hlo _) rfl⟩

/-- Every shape of a next state but a stop, of an instruction that is no read, moves both windows on. -/
theorem Effect.windowsFollow (ht : Effect i s t) (hx : t.exc = none) (hhi : ∀ rd, i ≠ .mfhi rd)
    (hlo : ∀ rd, i ≠ .mflo rd) : WindowsFollow i s t := by
  cases ht with
  | stops => cases hx
  | computes _ u hu | accesses _ u hu | links _ _ _ _ u hu | transfers _ _ _ u hu =>
    exact windowsFollow_of_regsOnly hhi hlo hu (fun _ => .inl) ⟨rfl, rfl, fun _ => rfl⟩ ⟨rfl, rfl, fun _ => rfl⟩
  | stores _ l v =>
    exact windowsFollow_of_regsOnly hhi hlo (RegsOnly.refl (w := Named i) (s.accessed.writeLane l v)) (fun _ => .inl)
      (by simp) ⟨rfl, rfl, fun _ => rfl⟩
  | conditional _ m hm b u hu =>
    refine windowsFollow_of_regsOnly hhi hlo hu (fun _ => .inl) ?_ ⟨rfl, rfl, fun _ => rfl⟩
    rcases hm with rfl | ⟨l, v, rfl⟩ <;> simp
  | readsHi rd hi => exact absurd hi (hhi rd)
  | readsLo rd hi => exact absurd hi (hlo rd)
  | writesHiLo _ u hu =>
    exact windowsFollow_of_regsOnly hhi hlo hu (fun _ => .inr) ⟨rfl, rfl, fun _ => rfl⟩ ⟨rfl, rfl, fun _ => rfl⟩

end

/-- Settles O32, by cases on whether the instruction is MFHI, MFLO or no read. -/
theorem readWindowsFollow : Obligations.ReadWindowsFollow := by
  intro i s t h hx follows
  cases i with
  | mfhi rd => exact mfhi_windowsFollow h
  | mflo rd => exact mflo_windowsFollow h
  | _ => exact (exec_effect h).windowsFollow hx (fun _ hi => by cases hi) (fun _ hi => by cases hi)

end Sys2Proof.Machine
